-- ==== Sys2Proof/Word.lean ====
section
/-! DEFINITION. The words of the block: 32-bit bus data and registers (00_scope.md R5, DATA_WIDTH), bytes, and the
eight-word groups SCALAR[0..7] and PUBKEY_X[0..7] (10_state.md R32, R34). -/

namespace Sys2Proof

/-- A 32-bit register or bus data value (R5, DATA_WIDTH = 32). -/
abbrev Word := BitVec 32

/-- A byte of the compressed public key (R161). -/
abbrev Byte := BitVec 8

/-- A group of eight 32-bit registers, index 0 first (R32, R34). -/
abbrev Words8 := Vector Word 8

end Sys2Proof
end

