-- ==== Sys2Proof/Config.lean ====
section
/-! DEFINITION. What an implementation fixes and what the spec leaves open (00_scope.md R5). `MULT_LATENCY`,
`TIMING_PROFILE` and wait states are times, and the model has no time (R252, R253; log 14). -/

namespace Sys2Proof.Config

/-- WINDOW_SIZE (R5, R50): the register window has 256 bytes. -/
def windowSize : Nat := 256

/-- BASE_ADDR is OPEN and aligned to 256 bytes (R5, R50): this is BASE_ADDR / 256, a value nothing in Lean can see
(log 13). -/
opaque basePage : Nat

/-- BASE_ADDR, aligned to 256 bytes by construction (R50). -/
def baseAddr : Nat := windowSize * basePage

/-- FREE VALUE (log 11). The coordinates from which the Engine would serialise a result if `K·G` were the point at
infinity. The block has no encoding for that point and R160 says that no accepted scalar meets it. It depends on the
scalar alone, as every result of MULT does (R165). -/
opaque infinityStandIn : BitVec 256 → Nat × Nat

end Sys2Proof.Config
end

