-- ==== Sys2Proof/Syntax.lean ====
section
/-! DEFINITION. The encoded operations of the block (30_encoding.md R70, R71) and its instructions: one constructor per
row of spec/opcode_table.json. -/

namespace Sys2Proof

/-- An abstract bus transaction `(W, off, size, strb, wdata)` (R71). -/
structure Transaction where
  /-- `W`: true for a write, false for a read. -/
  write : Bool
  /-- The window offset `off[7:0]` (R50). -/
  off   : BitVec 8
  /-- The access size in bytes; only 4 is admitted (R57). -/
  size  : Nat
  /-- The write byte strobes; only 0b1111 is admitted on a write (R57). -/
  strb  : BitVec 4
  /-- The write data; ignored on a read. -/
  wdata : Word
deriving DecidableEq, Repr, Inhabited

/-- The two kinds of encoded operation (R70): a bus transaction, or a command word issued by a write to CMD. -/
inductive HostOp where
  /-- Format `bus` (R71). -/
  | bus (t : Transaction)
  /-- Format `cmd`: the 32-bit value of a write to CMD (R74). -/
  | cmd (w : Word)
deriving DecidableEq, Repr

/-- The instructions, one per row of the opcode table. `i` is the register index `off[4:2]` (R72); `wdata` is the one
immediate (R73). -/
inductive Instr where
  /-- NOP, command word 0 (R190). -/
  | nop
  /-- VALIDATE, command word 1 (R133). -/
  | validate
  /-- MULT, command word 2 (R162). -/
  | mult
  /-- ZEROIZE, command word 3 (R191, R192). -/
  | zeroize
  /-- RD ID (R103). -/
  | rdId
  /-- WR ID (R104). -/
  | wrId (wdata : Word)
  /-- RD CTRL (R105). -/
  | rdCtrl
  /-- WR CTRL (R106). -/
  | wrCtrl (wdata : Word)
  /-- RD STATUS (R107). -/
  | rdStatus
  /-- WR STATUS (R108). -/
  | wrStatus (wdata : Word)
  /-- RD CMD (R109). -/
  | rdCmd
  /-- WR CMD with any 32-bit word, the illegal ones too (R110, R75). -/
  | wrCmd (wdata : Word)
  /-- RD PUBKEY_PREFIX (R111). -/
  | rdPubkeyPrefix
  /-- WR PUBKEY_PREFIX (R112). -/
  | wrPubkeyPrefix (wdata : Word)
  /-- RD SCALARi (R113). -/
  | rdScalar (i : Fin 8)
  /-- WR SCALARi (R114). -/
  | wrScalar (i : Fin 8) (wdata : Word)
  /-- RD PUBKEY_Xi (R115). -/
  | rdPubkeyX (i : Fin 8)
  /-- WR PUBKEY_Xi (R116). -/
  | wrPubkeyX (i : Fin 8) (wdata : Word)
deriving DecidableEq, Repr

end Sys2Proof
end

