-- ==== Sys2Proof/Machine/State.lean ====
section
/-! DEFINITION. The architectural state of the block (10_state.md R20), the model's own fields beside it, and the state
after reset (70_reset_and_hazards.md R241). -/

namespace Sys2Proof.Machine

/-- The architectural state of the block, exactly the table of R20. -/
structure Regs where
  /-- `CTRL.IRQ_EN` (R21). -/
  irqEn        : Bool
  /-- `STATUS.BUSY` (R23). -/
  busy         : Bool
  /-- `STATUS.DONE` (R24). -/
  done         : Bool
  /-- `STATUS.VALID` (R25). -/
  valid        : Bool
  /-- `STATUS.OUT_VALID` (R26). -/
  outValid     : Bool
  /-- `STATUS.FAULT` (R27). -/
  fault        : Bool
  /-- `STATUS.DROP` (R28). -/
  drop         : Bool
  /-- `STATUS.REASON` (R29). -/
  reason       : BitVec 2
  /-- `STATUS.ERRCODE` (R30). -/
  errcode      : BitVec 4
  /-- `SCALAR[0..7]` (R32). -/
  scalar       : Words8
  /-- `PUBKEY_PREFIX[7:0]` (R33). -/
  pubkeyPrefix : Byte
  /-- `PUBKEY_X[0..7]` (R34). -/
  pubkeyX      : Words8
  /-- The hidden snapshot `K` (R35). -/
  k            : BitVec 256
deriving DecidableEq, Repr

/-- The reset value of every register (R20, R241). -/
def Regs.reset : Regs where
  irqEn := false
  busy := false
  done := false
  valid := false
  outValid := false
  fault := false
  drop := false
  reason := 0#2
  errcode := 0#4
  scalar := Vector.replicate 8 0#32
  pubkeyPrefix := 0x00#8
  pubkeyX := Vector.replicate 8 0#32
  k := 0#256

/-- The response code of a transaction (R71). -/
inductive Resp where
  | ok
  | err
deriving DecidableEq, Repr

/-- The response `(resp, rdata)` of a transaction (R71). -/
structure Response where
  resp  : Resp
  rdata : Word
deriving DecidableEq, Repr

/-- What can happen next: one of the three kinds of step (R9). -/
inductive Event where
  /-- A bus master's operation. -/
  | host (op : HostOp)
  /-- The Engine is given a turn. -/
  | engine
  /-- The hardware reset input is asserted (R240). -/
  | reset
deriving DecidableEq, Repr

/-- The whole state: the block's registers, and the model's own fields (INVENTORY.md, '## State'). -/
structure State where
  /-- The block's registers (R20). -/
  regs      : Regs
  /-- MODEL'S OWN: a reset has happened since power-up (R244; log 6). -/
  resetSeen : Bool
  /-- MODEL'S OWN: the sticky fault mark of R10 (log 5). -/
  faultMark : Bool
  /-- MODEL'S OWN: the response on the bus of the last transaction, none before the first (R71; log 4). -/
  response  : Option Response
  /-- MODEL'S OWN: the events still to come, in the order in which they are taken (R9, R61; log 1). -/
  agenda    : List Event
deriving DecidableEq, Repr

/-- The machine right after a hardware reset, with no event waiting: every register at the value of R241; the model's
own fields as log 1, 4, 5 and 6 say. -/
def State.reset : State where
  regs := Regs.reset
  resetSeen := true
  faultMark := false
  response := none
  agenda := []

/-- The machine after power-up and before the first reset (R244): the registers hold anything at all. -/
def State.powerUp (r : Regs) : State :=
  { regs := r, resetSeen := false, faultMark := false, response := none, agenda := [] }

/-- Why the machine stops with a fault. The spec stops it nowhere: a bus error is a response (R10, R211) and the block's
fault state is a register (R213), so this type has no constructor. -/
inductive Fault where
deriving DecidableEq, Repr

/-- Why a step has no meaning. -/
inductive Refusal where
  /-- Raised by an arm of `exec` whose instruction has no meaning yet. Safe: nothing follows from it. No arm is so. -/
  | notModelled (mnemonic : String)
  /-- Raised by a Host or Engine step before the first reset after power-up (R244: "A model admits no Host step before
  the first Reset step"). Safe: a claim cannot rest on such a step. -/
  | beforeFirstReset
deriving DecidableEq, Repr

/-- The outcome of an instruction or a step. -/
abbrev Result := Host.Outcome State Fault Refusal

end Sys2Proof.Machine
end

