-- ==== Sys2Proof/Machine/Operands.lean ====
section
/-! DEFINITION. The operands of the block: the ID constant, the scalar read big-endian from its eight words, byte strings
and their packing into words, and window addresses. -/

namespace Sys2Proof.Machine

/-- ID_VALUE (R31): "SK1" and revision 1. -/
def idValue : Word := 0x534B3101#32

/-- `scalar_value()`: the big-endian unsigned integer of eight words, index 0 most significant (R130, R53). -/
def scalarValue (w : Words8) : Nat :=
  2 ^ (32 * 7) * w[0].toNat + 2 ^ (32 * 6) * w[1].toNat + 2 ^ (32 * 5) * w[2].toNat + 2 ^ (32 * 4) * w[3].toNat +
    2 ^ (32 * 3) * w[4].toNat + 2 ^ (32 * 2) * w[5].toNat + 2 ^ (32 * 1) * w[6].toNat + 2 ^ (32 * 0) * w[7].toNat

/-- `be_int(b[0..L-1])`: a byte string read as a big-endian unsigned integer (R7). -/
def beInt {L : Nat} (b : Vector Byte L) : Nat :=
  ∑ i : Fin L, 256 ^ (L - 1 - i.val) * b[i].toNat

/-- `be_bytes_L(v)`: the `L` bytes of `v`, most significant first (R7). -/
def beBytes (L v : Nat) : Vector Byte L := Vector.ofFn fun i => BitVec.ofNat 8 (v / 256 ^ (L - 1 - i.val))

/-- Four bytes in one word, the first in bits 31:24 (R53, R54). -/
def wordOfBytes (a b c d : Byte) : Word := a ++ b ++ c ++ d

/-- The eight words of 32 bytes `s[0..31]` (R53). -/
def packScalar (s : Vector Byte 32) : Words8 :=
  Vector.ofFn fun i => wordOfBytes s[4 * i.val] s[4 * i.val + 1] s[4 * i.val + 2] s[4 * i.val + 3]

/-- The eight X words of the 33 bytes `c[0..32]` (here `key`) of a compressed key (R54). -/
def packX (key : Vector Byte 33) : Words8 :=
  Vector.ofFn fun i => wordOfBytes key[1 + 4 * i.val] key[2 + 4 * i.val] key[3 + 4 * i.val] key[4 + 4 * i.val]

/-- Byte `j` of a word as a host emits it, bits 31:24 first (R54). -/
def wordByte (w : Word) (j : Fin 4) : Byte := w.extractLsb' (24 - 8 * j.val) 8

/-- The 33 bytes a host rebuilds from PUBKEY_PREFIX and the X words (R54). -/
def emitKey (first : Byte) (x : Words8) : Vector Byte 33 :=
  Vector.ofFn fun n => if h : n.val = 0 then first else wordByte x[(n.val - 1) / 4] ⟨(n.val - 1) % 4, by omega⟩

/-- All eight words zero. -/
def zeroWords : Words8 := Vector.replicate 8 0#32

/-- The window offset of a host-physical address, if it lies in the window (R50). -/
def windowOffset (address : Nat) : Option (BitVec 8) :=
  if Config.baseAddr ≤ address ∧ address < Config.baseAddr + Config.windowSize then
    some (BitVec.ofNat 8 (address - Config.baseAddr))
  else none

end Sys2Proof.Machine
end

