-- ==== Sys2Proof/Machine/Flags.lean ====
section
/-! DEFINITION. The flags: the STATUS and CTRL words, the interrupt output, the phase, the REASON and ERRCODE codes and
the classification of a scalar. -/

namespace Sys2Proof.Machine

/-- REASON 0, IN_RANGE (R29). -/
def reasonInRange : BitVec 2 := 0#2
/-- REASON 1, ZERO (R29). -/
def reasonZero : BitVec 2 := 1#2
/-- REASON 2, GE_ORDER (R29). -/
def reasonGeOrder : BitVec 2 := 2#2

/-- ERRCODE 0x0, NONE (R30). -/
def errNone : BitVec 4 := 0x0#4
/-- ERRCODE 0x1, INVALID_SCALAR (R30). -/
def errInvalidScalar : BitVec 4 := 0x1#4
/-- ERRCODE 0x2, ILLEGAL_CMD (R30). -/
def errIllegalCmd : BitVec 4 := 0x2#4

/-- The group order `n` (R131; log 10). -/
def groupOrder : Nat := 0xFFFFFFFFFFFFFFFFFFFFFFFFFFFFFFFEBAAEDCE6AF48A03BBFD25E8CD0364141

/-- `classify(k)`: VALID and REASON of a scalar (R132). -/
def classify (k : Nat) : Bool × BitVec 2 :=
  if k = 0 then (false, reasonZero)
  else if k ≥ groupOrder then (false, reasonGeOrder)
  else (true, reasonInRange)

/-- One flag in a 32-bit word, bit 0. -/
def flagWord (b : Bool) : Word := (BitVec.ofBool b).setWidth 32

/-- The word RD STATUS returns (R107, R22). -/
def statusWord (r : Regs) : Word :=
  (r.errcode.setWidth 32 <<< 12) ||| (r.reason.setWidth 32 <<< 8) ||| (flagWord r.drop <<< 5) |||
    (flagWord r.fault <<< 4) ||| (flagWord r.outValid <<< 3) ||| (flagWord r.valid <<< 2) |||
    (flagWord r.done <<< 1) ||| flagWord r.busy

/-- The word RD CTRL returns: IRQ_EN in bit 0, SRST and the reserved bits 0 (R105). -/
def ctrlWord (r : Regs) : Word := flagWord r.irqEn

/-- The output `irq = CTRL.IRQ_EN ∧ STATUS.DONE` (R37, R219). -/
def irq (r : Regs) : Bool := r.irqEn && r.done

/-- The phases of the block (R36). -/
inductive Phase where
  | idle
  | busy
  | faulted
deriving DecidableEq, Repr

/-- The phase, derived from the flags (R36); BUSY is tested first, as R217 orders the two. -/
def phase (r : Regs) : Phase := if r.busy then .busy else if r.fault then .faulted else .idle

end Sys2Proof.Machine
end

