-- ==== Sys2Proof/Machine/Ops.lean ====
section
/-! DEFINITION. The named operations the meanings share: bus responses, register updates, the drop, the fault entry
(the block's one fatal exception, R213) and the reset that alone leaves it (R215, R241). -/

namespace Sys2Proof.Machine

/-- The response of a transaction (R71). -/
def State.respond (s : State) (resp : Resp) (rdata : Word) : State := { s with response := some ⟨resp, rdata⟩ }

/-- New registers, with the sticky mark R10 asks for: set whenever FAULT goes from 0 to 1. -/
def State.commit (s : State) (r : Regs) : State :=
  { s with regs := r, faultMark := s.faultMark || (!s.regs.fault && r.fault) }

/-- The remaining events. -/
def State.withAgenda (s : State) (rest : List Event) : State := { s with agenda := rest }

/-- A read that returns `v` with `OK` and changes no register (R59). -/
def readOk (v : Word) (s : State) : Result := .next (s.respond .ok v)

/-- A write that takes effect: the registers become `r`, the response is `OK` with data 0 (R71). -/
def writeOk (r : Regs) (s : State) : Result := .next ((s.commit r).respond .ok 0#32)

/-- `raise BusError(off)`: the response is `ERR` with data 0 and no register changes (R8, R100). -/
def busError (s : State) : Result := .next (s.respond .err 0#32)

/-- `DropWrite()` (R216). -/
def Regs.dropWrite (r : Regs) : Regs := { r with drop := true }

/-- PUBKEY all zero and OUT_VALID 0, always together (R26). -/
def Regs.clearResult (r : Regs) : Regs := { r with outValid := false, pubkeyPrefix := 0x00#8, pubkeyX := zeroWords }

/-- The key material and the result cleared: what both forms of ZEROIZE have in common (R191, R192). -/
def Regs.wipe (r : Regs) : Regs := { r.clearResult with scalar := zeroWords, k := 0#256 }

/-- `raise Fault(INVALID_SCALAR)`: the fault entry (R213). -/
def Regs.raiseInvalidScalar (r : Regs) : Regs := { r with fault := true, errcode := errInvalidScalar, done := true }

/-- `Reset()`, and `SoftReset() = Reset()`: every register takes its reset value, whatever it held (R240, R241). This is
the one return from the fault state (R215). -/
def Regs.doReset (_r : Regs) : Regs := Regs.reset

end Sys2Proof.Machine
end

