-- ==== Sys2Proof/Machine/Commands.lean ====
section
/-! DEFINITION. WR CMD and the commands it carries (40_register_access.md R110; 41_validate.md R133; 42_mult.md R162;
43_housekeeping.md R190 to R193; 60_exceptions.md R214, R216). -/

namespace Sys2Proof.Machine

/-- `Nop()` (R190). -/
def Regs.nop (r : Regs) : Regs := { r with errcode := errNone, done := true }

/-- `Validate()` (R133). -/
def Regs.validate (r : Regs) : Regs :=
  let c := classify (scalarValue r.scalar)
  { r with valid := c.1, reason := c.2, errcode := errNone, done := true }

/-- `MultAccept()` (R162): the validity re-check, the old result destroyed, then the fault entry or the snapshot. -/
def Regs.multAccept (r : Regs) : Regs :=
  let k := scalarValue r.scalar
  let c := classify k
  let checked := { r.clearResult with valid := c.1, reason := c.2 }
  if c.1 = false then checked.raiseInvalidScalar
  else { checked with k := BitVec.ofNat 256 k, errcode := errNone, busy := true }

/-- `Zeroize()` (R191). -/
def Regs.zeroize (r : Regs) : Regs :=
  { r.wipe with valid := false, reason := reasonInRange, errcode := errNone, done := true }

/-- `IllegalCmd()` (R193). -/
def Regs.illegalCmd (r : Regs) : Regs := { r with errcode := errIllegalCmd, done := true }

/-- `FaultedCmd(wdata)` (R214), with `ZeroizeFaulted()` (R192). -/
def Regs.faultedCmd (wdata : Word) (r : Regs) : Regs :=
  { (if wdata = 0x00000003#32 then r.wipe else r) with done := true }

/-- The command words in the order of R110's case. -/
def Regs.acceptCmd (wdata : Word) (r : Regs) : Regs :=
  if wdata = 0x00000000#32 then r.nop
  else if wdata = 0x00000001#32 then r.validate
  else if wdata = 0x00000002#32 then r.multAccept
  else if wdata = 0x00000003#32 then r.zeroize
  else r.illegalCmd

/-- The registers after a CMD write (R110): BUSY drops it, FAULT reduces it, else it is accepted and DONE is cleared
first. -/
def Regs.cmdWrite (wdata : Word) (r : Regs) : Regs :=
  if r.busy then r.dropWrite
  else if r.fault then r.faultedCmd wdata
  else Regs.acceptCmd wdata { r with done := false }

/-- WR CMD with any word (R110, R75). -/
def execWrCmd (wdata : Word) (s : State) : Result := writeOk (s.regs.cmdWrite wdata) s

/-- NOP issued: the CMD write of word 0 (R190, R80). -/
def execNop (s : State) : Result := writeOk (s.regs.cmdWrite 0x00000000#32) s

/-- VALIDATE issued: the CMD write of word 1 (R133, R80). -/
def execValidate (s : State) : Result := writeOk (s.regs.cmdWrite 0x00000001#32) s

/-- MULT issued: the CMD write of word 2 (R162, R80). A valid scalar's completion is a later Engine step (R163). -/
def execMult (s : State) : Result := writeOk (s.regs.cmdWrite 0x00000002#32) s

/-- ZEROIZE issued: the CMD write of word 3 (R191, R192, R80). -/
def execZeroize (s : State) : Result := writeOk (s.regs.cmdWrite 0x00000003#32) s

end Sys2Proof.Machine
end

