-- ==== Sys2Proof/Machine/RegisterAccess.lean ====
section
/-! DEFINITION. The meanings of the bus rows but WR CMD (40_register_access.md R103 to R116): one definition per
instruction. -/

namespace Sys2Proof.Machine

/-- RD ID (R103). -/
def execRdId (s : State) : Result := readOk idValue s

/-- WR ID (R104): read-only. -/
def execWrId (_wdata : Word) (s : State) : Result := busError s

/-- RD CTRL (R105). -/
def execRdCtrl (s : State) : Result := readOk (ctrlWord s.regs) s

/-- WR CTRL (R106): a soft reset when bit 1 is set, else IRQ_EN from bit 0. -/
def execWrCtrl (wdata : Word) (s : State) : Result :=
  if wdata[1] then writeOk s.regs.doReset s
  else writeOk { s.regs with irqEn := wdata[0] } s

/-- RD STATUS (R107). -/
def execRdStatus (s : State) : Result := readOk (statusWord s.regs) s

/-- WR STATUS (R108): write-one-to-clear on DONE and DROP. -/
def execWrStatus (wdata : Word) (s : State) : Result :=
  writeOk { s.regs with done := s.regs.done && !wdata[1], drop := s.regs.drop && !wdata[5] } s

/-- RD CMD (R109): write-only, reads 0. -/
def execRdCmd (s : State) : Result := readOk 0#32 s

/-- RD PUBKEY_PREFIX (R111). -/
def execRdPubkeyPrefix (s : State) : Result := readOk (s.regs.pubkeyPrefix.setWidth 32) s

/-- WR PUBKEY_PREFIX (R112): read-only. -/
def execWrPubkeyPrefix (_wdata : Word) (s : State) : Result := busError s

/-- RD SCALARi (R113): write-only, reads 0. -/
def execRdScalar (_i : Fin 8) (s : State) : Result := readOk 0#32 s

/-- WR SCALARi (R114): dropped while BUSY, accepted otherwise, also in the fault state. -/
def execWrScalar (i : Fin 8) (wdata : Word) (s : State) : Result :=
  if s.regs.busy then writeOk s.regs.dropWrite s
  else writeOk { s.regs with scalar := s.regs.scalar.set i wdata } s

/-- RD PUBKEY_Xi (R115). -/
def execRdPubkeyX (i : Fin 8) (s : State) : Result := readOk s.regs.pubkeyX[i] s

/-- WR PUBKEY_Xi (R116): read-only. -/
def execWrPubkeyX (_i : Fin 8) (_wdata : Word) (s : State) : Result := busError s

end Sys2Proof.Machine
end

