-- ==== Sys2Proof/Machine/Dispatch.lean ====
section
/-! DEFINITION. The dispatch: one arm per instruction, each one call of its meaning. -/

namespace Sys2Proof.Machine

def exec (i : Instr) (s : State) : Host.Outcome State Fault Refusal :=
  match i with
  | .nop => Sys2Proof.Machine.execNop s
  | .validate => Sys2Proof.Machine.execValidate s
  | .mult => Sys2Proof.Machine.execMult s
  | .zeroize => Sys2Proof.Machine.execZeroize s
  | .rdId => Sys2Proof.Machine.execRdId s
  | .wrId wdata => Sys2Proof.Machine.execWrId wdata s
  | .rdCtrl => Sys2Proof.Machine.execRdCtrl s
  | .wrCtrl wdata => Sys2Proof.Machine.execWrCtrl wdata s
  | .rdStatus => Sys2Proof.Machine.execRdStatus s
  | .wrStatus wdata => Sys2Proof.Machine.execWrStatus wdata s
  | .rdCmd => Sys2Proof.Machine.execRdCmd s
  | .wrCmd wdata => Sys2Proof.Machine.execWrCmd wdata s
  | .rdPubkeyPrefix => Sys2Proof.Machine.execRdPubkeyPrefix s
  | .wrPubkeyPrefix wdata => Sys2Proof.Machine.execWrPubkeyPrefix wdata s
  | .rdScalar n => Sys2Proof.Machine.execRdScalar n s
  | .wrScalar n wdata => Sys2Proof.Machine.execWrScalar n wdata s
  | .rdPubkeyX n => Sys2Proof.Machine.execRdPubkeyX n s
  | .wrPubkeyX n wdata => Sys2Proof.Machine.execWrPubkeyX n wdata s

end Sys2Proof.Machine
end

