-- ==== Sys2Proof/WellFormed.lean ====
section
/-! DEFINITION. Which encoded operations are well formed: the access rules of 20_memory.md R50, R56, R57, stated on
numbers and apart from the decoder's bit fields. An `Instr` is well formed by its type: its one bounded field is a
`Fin 8`. -/

namespace Sys2Proof

/-- The access is exactly 32 bits wide (R57). -/
def Transaction.widthOk (t : Transaction) : Bool := t.size == 4

/-- A write has all four byte strobes set (R57). -/
def Transaction.strobesOk (t : Transaction) : Bool := !t.write || t.strb.toNat == 15

/-- The offset is a multiple of 4 (R56). -/
def Transaction.aligned (t : Transaction) : Bool := t.off.toNat % 4 == 0

/-- The offsets of the window map that belong to a register, as inclusive ranges (R50): ID to PUBKEY_PREFIX, then
SCALAR and PUBKEY_X. -/
def mappedRanges : List (Nat × Nat) := [(0x00, 0x13), (0x20, 0x3F), (0x40, 0x5F)]

/-- The offset belongs to a register of the map (R50). -/
def Transaction.mapped (t : Transaction) : Bool :=
  mappedRanges.any fun r => r.1 ≤ t.off.toNat && t.off.toNat ≤ r.2

/-- A transaction that passes every check before the register's own rule (R78, checks 1 to 3). -/
def Transaction.wellFormed (t : Transaction) : Bool :=
  t.widthOk && t.strobesOk && t.aligned && t.mapped

/-- Every command word has a meaning (R75), so only transactions can be ill formed. -/
def HostOp.wellFormed : HostOp → Bool
  | .bus t => t.wellFormed
  | .cmd _ => true

end Sys2Proof
end

