-- ==== Sys2Proof/Decode.lean ====
section
/-! DEFINITION. The decoder, total on every operation and rejecting by name (30_encoding.md R70 to R78), the encoder
written from the same tables, and the opcode table as data. -/

namespace Sys2Proof

/-- Why a transaction is no row of the opcode table: the checks of R78 in their order. Each answers the bus error of
R100. -/
inductive DecodeError where
  /-- Size other than 4 bytes, or a write with partial strobes (R101). -/
  | accessWidth
  /-- `off[1:0]` is not 0b00 (R101). -/
  | misaligned
  /-- The offset is reserved (R102). -/
  | unmapped
deriving DecidableEq, Repr

/-- The 9-bit selector `sel = W<<8 | off` of a transaction (R71). -/
def Transaction.selector (t : Transaction) : BitVec 9 := BitVec.ofBool t.write ++ t.off

/-- Field `W` of a selector, bit 8 (R72). -/
def selWrite (sel : BitVec 9) : Bool := sel[8]

/-- Field `group` of a selector, bits 7:5 (R72). -/
def selGroup (sel : BitVec 9) : BitVec 3 := sel.extractLsb' 5 3

/-- Field `index` of a selector, bits 4:2 (R72). -/
def selIndex (sel : BitVec 9) : Fin 8 := (sel.extractLsb' 2 3).toFin

/-- Field `align` of a selector, bits 1:0 (R72). -/
def selAlign (sel : BitVec 9) : BitVec 2 := sel.extractLsb' 0 2

/-- Group 0b000: the control registers by index (R72). -/
def decodeControl (write : Bool) (index : Nat) (wdata : Word) : Except DecodeError Instr :=
  match index with
  | 0 => .ok (if write then .wrId wdata else .rdId)
  | 1 => .ok (if write then .wrCtrl wdata else .rdCtrl)
  | 2 => .ok (if write then .wrStatus wdata else .rdStatus)
  | 3 => .ok (if write then .wrCmd wdata else .rdCmd)
  | 4 => .ok (if write then .wrPubkeyPrefix wdata else .rdPubkeyPrefix)
  | _ => .error .unmapped

/-- The alignment check, then the offset decode (R78, checks 2 and 3; R72). -/
def decodeSelector (sel : BitVec 9) (wdata : Word) : Except DecodeError Instr :=
  if selAlign sel ≠ 0#2 then .error .misaligned
  else
    match (selGroup sel).toNat with
    | 0 => decodeControl (selWrite sel) (selIndex sel).val wdata
    | 1 => .ok (if selWrite sel then .wrScalar (selIndex sel) wdata else .rdScalar (selIndex sel))
    | 2 => .ok (if selWrite sel then .wrPubkeyX (selIndex sel) wdata else .rdPubkeyX (selIndex sel))
    | _ => .error .unmapped

/-- The size and strobe check (R78, check 1), then the selector (R100). -/
def decodeTransaction (t : Transaction) : Except DecodeError Instr :=
  if t.size ≠ 4 ∨ (t.write = true ∧ t.strb ≠ 0b1111#4) then .error .accessWidth
  else decodeSelector t.selector t.wdata

/-- A command word, compared on all 32 bits (R74). Every other word is an illegal command, a CMD write like any other
(R75). -/
def decodeCommand (w : Word) : Instr :=
  if w = 0x00000000#32 then .nop
  else if w = 0x00000001#32 then .validate
  else if w = 0x00000002#32 then .mult
  else if w = 0x00000003#32 then .zeroize
  else .wrCmd w

/-- The decoder over both formats (R70). -/
def decode : HostOp → Except DecodeError Instr
  | .bus t => decodeTransaction t
  | .cmd w => .ok (decodeCommand w)

/-- The admitted transaction of a selector and write data: 4 bytes, all strobes (R71). -/
def transactionOf (sel : BitVec 9) (wdata : Word) : Transaction :=
  { write := selWrite sel, off := sel.extractLsb' 0 8, size := 4, strb := 0b1111#4, wdata := wdata }

/-- The selector of one register of an array: the row's `match` with the index in bits 4:2 (R72). -/
def arraySelector (base : BitVec 9) (i : Fin 8) : BitVec 9 := base ||| (BitVec.ofNat 9 i.val <<< 2)

/-- The encoder: the operation of an instruction, from the `match` values of the opcode table (R74, R103 to R116). -/
def encode : Instr → HostOp
  | .nop => .cmd 0x00000000#32
  | .validate => .cmd 0x00000001#32
  | .mult => .cmd 0x00000002#32
  | .zeroize => .cmd 0x00000003#32
  | .rdId => .bus (transactionOf 0x000#9 0#32)
  | .wrId w => .bus (transactionOf 0x100#9 w)
  | .rdCtrl => .bus (transactionOf 0x004#9 0#32)
  | .wrCtrl w => .bus (transactionOf 0x104#9 w)
  | .rdStatus => .bus (transactionOf 0x008#9 0#32)
  | .wrStatus w => .bus (transactionOf 0x108#9 w)
  | .rdCmd => .bus (transactionOf 0x00C#9 0#32)
  | .wrCmd w => .bus (transactionOf 0x10C#9 w)
  | .rdPubkeyPrefix => .bus (transactionOf 0x010#9 0#32)
  | .wrPubkeyPrefix w => .bus (transactionOf 0x110#9 w)
  | .rdScalar i => .bus (transactionOf (arraySelector 0x020#9 i) 0#32)
  | .wrScalar i w => .bus (transactionOf (arraySelector 0x120#9 i) w)
  | .rdPubkeyX i => .bus (transactionOf (arraySelector 0x040#9 i) 0#32)
  | .wrPubkeyX i w => .bus (transactionOf (arraySelector 0x140#9 i) w)

/-- A row of the opcode table's bus format: its mnemonic, `match` and `mask` on the selector. -/
structure BusRow where
  mnemonic : String
  pattern  : BitVec 9
  mask     : BitVec 9
deriving DecidableEq, Repr

/-- A selector is of a row when it agrees with `match` on the bits of `mask` (R71). -/
def BusRow.covers (r : BusRow) (sel : BitVec 9) : Bool := (sel &&& r.mask) == r.pattern

/-- The bus rows of spec/opcode_table.json. -/
def busTable : List BusRow :=
  [ ⟨"RD_ID", 0x000#9, 0x1FF#9⟩, ⟨"WR_ID", 0x100#9, 0x1FF#9⟩,
    ⟨"RD_CTRL", 0x004#9, 0x1FF#9⟩, ⟨"WR_CTRL", 0x104#9, 0x1FF#9⟩,
    ⟨"RD_STATUS", 0x008#9, 0x1FF#9⟩, ⟨"WR_STATUS", 0x108#9, 0x1FF#9⟩,
    ⟨"RD_CMD", 0x00C#9, 0x1FF#9⟩, ⟨"WR_CMD", 0x10C#9, 0x1FF#9⟩,
    ⟨"RD_PUBKEY_PREFIX", 0x010#9, 0x1FF#9⟩, ⟨"WR_PUBKEY_PREFIX", 0x110#9, 0x1FF#9⟩,
    ⟨"RD_SCALARi", 0x020#9, 0x1E3#9⟩, ⟨"WR_SCALARi", 0x120#9, 0x1E3#9⟩,
    ⟨"RD_PUBKEY_Xi", 0x040#9, 0x1E3#9⟩, ⟨"WR_PUBKEY_Xi", 0x140#9, 0x1E3#9⟩ ]

/-- The mnemonic of an instruction in spec/opcode_table.json. -/
def Instr.mnemonic : Instr → String
  | .nop => "NOP"
  | .validate => "VALIDATE"
  | .mult => "MULT"
  | .zeroize => "ZEROIZE"
  | .rdId => "RD_ID"
  | .wrId _ => "WR_ID"
  | .rdCtrl => "RD_CTRL"
  | .wrCtrl _ => "WR_CTRL"
  | .rdStatus => "RD_STATUS"
  | .wrStatus _ => "WR_STATUS"
  | .rdCmd => "RD_CMD"
  | .wrCmd _ => "WR_CMD"
  | .rdPubkeyPrefix => "RD_PUBKEY_PREFIX"
  | .wrPubkeyPrefix _ => "WR_PUBKEY_PREFIX"
  | .rdScalar _ => "RD_SCALARi"
  | .wrScalar _ _ => "WR_SCALARi"
  | .rdPubkeyX _ => "RD_PUBKEY_Xi"
  | .wrPubkeyX _ _ => "WR_PUBKEY_Xi"

/-- The operation of a table word (log 8): a 32-bit word is a command; any other length is a bus operation, the selector
in bits 8:0 and the write data in bits 40:9. -/
def tableOp (nbits w : Nat) : HostOp :=
  if nbits = 32 then .cmd (BitVec.ofNat 32 w)
  else .bus (transactionOf (BitVec.ofNat 9 w) (BitVec.ofNat 32 (w / 2 ^ 9)))

/-- The instruction the decoder reads from a table word. -/
def decodeTableWord (nbits w : Nat) : Option Instr :=
  match decode (tableOp nbits w) with
  | .ok i => some i
  | .error _ => none

end Sys2Proof
end

