-- ==== Sys2Proof/Machine/Curve.lean ====
section
/-! DEFINITION. The curve secp256k1 and the compressed form (42_mult.md R150 to R161). The constants and formulas are
the spec's, which marks them as general knowledge (log 10). -/

namespace Sys2Proof.Machine

/-- The field prime `p` (R150). -/
def fieldPrime : Nat := 0xFFFFFFFFFFFFFFFFFFFFFFFFFFFFFFFFFFFFFFFFFFFFFFFFFFFFFFFEFFFFFC2F

/-- `a +_p b` (R151). -/
def addP (a b : Nat) : Nat := (a + b) % fieldPrime

/-- `a -_p b`, the non-negative representative (R151). -/
def subP (a b : Nat) : Nat := (a + (fieldPrime - b % fieldPrime)) % fieldPrime

/-- `a ·_p b` (R151). -/
def mulP (a b : Nat) : Nat := (a * b) % fieldPrime

/-- `b^e mod p` by squaring, over the lowest `bits` bits of the exponent. -/
def powP : Nat → Nat → Nat → Nat
  | 0, _, _ => 1
  | bits + 1, b, e =>
    let h := powP bits (mulP b b) (e / 2)
    if e % 2 = 1 then mulP b h else h

/-- `inv_p(a) = a^(p-2) mod p` (R151). At 0 the formula gives 0; the group law never asks for it (R157; log 12). -/
def invP (a : Nat) : Nat := powP 256 a (fieldPrime - 2)

/-- A point: the point at infinity `O` or an affine point `(x, y)` (R152). -/
inductive Point where
  | infinity
  | affine (x y : Nat)
deriving DecidableEq, Repr

/-- Membership in `E(F_p)`: coordinates in the field, and `y² = x³ + 7` (R152). -/
def Point.onCurve : Point → Bool
  | .infinity => true
  | .affine x y => x < fieldPrime && y < fieldPrime && y ^ 2 % fieldPrime == (x ^ 3 + 7) % fieldPrime

/-- The generator `G` (R154). -/
def generator : Point :=
  .affine 0x79BE667EF9DCBBAC55A06295CE870B07029BFCDB2DCE28D959F2815B16F81798
    0x483ADA7726A3C4655DA4FBFC0E1108A8FD17B448A68554199C47D08FFB10D4B8

/-- Negation (R155). -/
def Point.neg : Point → Point
  | .infinity => .infinity
  | .affine x y => .affine x ((fieldPrime - y) % fieldPrime)

/-- The third point of a line of slope `l` through points of abscissae `x1`, `x2`, negated: the last three lines of
R156. -/
def chordPoint (l x1 y1 x2 : Nat) : Point :=
  let x3 := subP (subP (mulP l l) x1) x2
  .affine x3 (subP (mulP l (subP x1 x3)) y1)

/-- Point addition (R156); doubling is its `P = Q` case (R157). -/
def Point.add : Point → Point → Point
  | .infinity, q => q
  | .affine x1 y1, .infinity => .affine x1 y1
  | .affine x1 y1, .affine x2 y2 =>
    if x1 = x2 ∧ (y1 + y2) % fieldPrime = 0 then .infinity
    else if x1 = x2 ∧ y1 = y2 then chordPoint (mulP (3 * x1 ^ 2) (invP (mulP 2 y1))) x1 y1 x2
    else chordPoint (mulP (subP y2 y1) (invP (subP x2 x1))) x1 y1 x2

/-- `k·P` by repeated addition, the definition of R158: `0·P = O`, `(k+1)·P = add(k·P, P)`. -/
def Point.repeatAdd (p : Point) : Nat → Point
  | 0 => .infinity
  | k + 1 => (Point.repeatAdd p k).add p

/-- The first `bits` bits of the double-and-add loop of R159, most significant bit of `k` first. -/
def Point.mulBits (p : Point) : Nat → Nat → Point
  | 0, _ => .infinity
  | bits + 1, k =>
    let r := Point.mulBits p bits (k / 2)
    let d := r.add r
    if k % 2 = 1 then d.add p else d

/-- `mul(k, P)`, the reference algorithm over 256 bits (R159). -/
def Point.mul (k : Nat) (p : Point) : Point := p.mulBits 256 k

/-- The first byte of the compressed form: 0x02 for even `y`, 0x03 for odd `y` (R161). -/
def parityByte (y : Nat) : Byte := if y % 2 = 0 then 0x02#8 else 0x03#8

/-- `compress((x, y)) = parity byte ‖ be_bytes_32(x)`: the parity byte, then the 32 bytes of `x`, most significant first (R161). -/
def compress (x y : Nat) : Vector Byte 33 :=
  Vector.ofFn fun n => if h : n.val = 0 then parityByte y else (beBytes 32 x)[n.val - 1]

end Sys2Proof.Machine
end

