-- ==== Sys2Proof/Machine/Engine.lean ====
section
/-! DEFINITION. The Engine step: the completion of an accepted MULT (42_mult.md R163). -/

namespace Sys2Proof.Machine

/-- The affine result `(x, y) = mul(K, G)` (R163). It is never the point at infinity for an accepted scalar (R160); for
that point the coordinates are a free value (log 11). -/
def multResult (k : BitVec 256) : Nat × Nat :=
  match Point.mul k.toNat generator with
  | .affine x y => (x, y)
  | .infinity => Config.infinityStandIn k

/-- The 33 bytes the Engine delivers for `K` (R161, R163). -/
def multKey (k : BitVec 256) : Vector Byte 33 := compress (multResult k).1 (multResult k).2

/-- `MultComplete()` (R163), all in one step (R58). -/
def Regs.multComplete (r : Regs) : Regs :=
  { r with
    pubkeyPrefix := (multKey r.k)[0]
    pubkeyX := packX (multKey r.k)
    outValid := true
    k := 0#256
    busy := false
    done := true }

/-- The Engine's turn: the completion, enabled exactly while BUSY = 1 (R163). A turn given while nothing runs passes
(log 3). -/
def engineTurn (s : State) : Result := if s.regs.busy then .next (s.commit s.regs.multComplete) else .next s

end Sys2Proof.Machine
end

