-- ==== Sys2Proof/Machine/Fetch.lean ====
section
/-! DEFINITION. Which step comes next: the block fetches no program (20_memory.md R64); it takes the next event of the
agenda (log 1). -/

namespace Sys2Proof.Machine

/-- What a step has to do: run an instruction, or it is already settled. -/
inductive Fetched where
  | run (i : Instr) (s : State)
  | settled (o : Result)

/-- A hardware reset (R240, R241), admitted in every state (R244). The agenda, the last response and the fault mark are
not the block's and stay (log 5, log 7). -/
def hardwareReset (s : State) : Result := .next { s.commit s.regs.doReset with resetSeen := true }

/-- A Host operation is decoded in the order of R78; what is no row answers the bus error of R100. -/
def fetchHost (op : HostOp) (s : State) : Fetched :=
  match decode op with
  | .ok i => .run i s
  | .error _ => .settled (busError s)

/-- Before the first reset only a reset is admitted (R244; log 6). -/
def admitted (s : State) (f : Fetched) : Fetched := if s.resetSeen then f else .settled (.refused .beforeFirstReset)

/-- With nothing on the agenda the Engine moves if it can: weak fairness (R252; log 2). Otherwise the block waits for
host transactions (R243), and before the first reset for that reset. -/
def idleTurn (s : State) : Result := if s.resetSeen then engineTurn s else .next s

/-- The next step, taken from the head of the agenda. -/
def fetch (s : State) : Fetched :=
  match s.agenda with
  | [] => .settled (idleTurn s)
  | .host op :: rest => admitted s (fetchHost op (s.withAgenda rest))
  | .engine :: rest => admitted s (.settled (engineTurn (s.withAgenda rest)))
  | .reset :: rest => .settled (hardwareReset (s.withAgenda rest))

/-- A Host operation put at the head of the agenda, so that it is the very next step. -/
def State.withNextOp (s : State) (op : HostOp) : State := s.withAgenda (.host op :: s.agenda)

end Sys2Proof.Machine
end

