-- ==== Sys2Proof/Machine/Step.lean ====
section
/-! DEFINITION. One step of the machine (00_scope.md R9), and how the host of this package places an operation. -/

namespace Sys2Proof.Machine

/-- One atomic step: the next event of the agenda, and the instruction it carries if it is a Host operation. -/
def step (s : State) : Host.Outcome State Fault Refusal :=
  match fetch s with
  | .run i t => exec i t
  | .settled o => o

/-- `s` with a table word's operation as its very next step (log 8, log 15). Nothing else changes. -/
def State.withFetchWord (s : State) (nbits w : Nat) : State := s.withNextOp (tableOp nbits w)

end Sys2Proof.Machine
end

