-- ==== Sys2Proof/Machine/MasterProgram.lean ====
section
/-! DEFINITION. Host programs: the statements and pseudo-instructions of 30_encoding.md R79 and R80, run by a bus master
against the machine. A master's variables and its place in its program are host state, not the block's (R38, R79), so
they stand in `Master` and not in `State` (log 18). Labels and variables are numbered. -/

namespace Sys2Proof.Machine

/-- The register names of the window map (R50, R79). -/
inductive RegName where
  | id
  | ctrl
  | status
  | cmd
  | pubkeyPrefix
  | scalar (i : Fin 8)
  | pubkeyX (i : Fin 8)
deriving DecidableEq, Repr

/-- `off(reg)` (R50). -/
def RegName.off : RegName → BitVec 8
  | .id => 0x00#8
  | .ctrl => 0x04#8
  | .status => 0x08#8
  | .cmd => 0x0C#8
  | .pubkeyPrefix => 0x10#8
  | .scalar i => BitVec.ofNat 8 (0x20 + 4 * i.val)
  | .pubkeyX i => BitVec.ofNat 8 (0x40 + 4 * i.val)

/-- `MemRead(off, 4)` (R8). -/
def memRead (off : BitVec 8) : HostOp :=
  .bus { write := false, off := off, size := 4, strb := 0b1111#4, wdata := 0#32 }

/-- `MemWrite(off, 4, v)` (R8). -/
def memWrite (off : BitVec 8) (v : Word) : HostOp :=
  .bus { write := true, off := off, size := 4, strb := 0b1111#4, wdata := v }

/-- A master's access at a host-physical address, if the window holds that address (R50). -/
def accessAt (write : Bool) (address size : Nat) (strb : BitVec 4) (wdata : Word) : Option HostOp :=
  (windowOffset address).map fun off => .bus { write, off, size, strb, wdata }

/-- One statement of a host program (R79). -/
inductive Stmt where
  /-- `WR reg, imm32`. -/
  | wr (reg : RegName) (imm : Word)
  /-- `RD reg -> v`. -/
  | rd (reg : RegName) (v : Nat)
  /-- `label:`. -/
  | label (l : Nat)
  /-- `BNZ v, mask, label`. -/
  | bnz (v : Nat) (mask : Word) (l : Nat)
  /-- `BZ v, mask, label`. -/
  | bz (v : Nat) (mask : Word) (l : Nat)
  /-- `WAITIRQ`. -/
  | waitIrq
deriving DecidableEq, Repr

/-- The pseudo-instructions of R80. -/
inductive Pseudo where
  | cmdNop
  | cmdValidate
  | cmdMult
  | cmdZeroize
  | srst
  | ldk (words : Words8)
  | pollDone (v l : Nat)
  | clrDone
  | rdPub (p : Nat) (x : Vector Nat 8)
deriving DecidableEq, Repr

/-- The exact expansions of R80. DESIGN CHOICE (log 18): R80 writes one label `L` in POLLDONE and does not say whether it
is one name or fresh at each use, so the label is the operand `l`, which the program chooses. -/
def Pseudo.expand : Pseudo → List Stmt
  | .cmdNop => [.wr .cmd 0x00000000#32]
  | .cmdValidate => [.wr .cmd 0x00000001#32]
  | .cmdMult => [.wr .cmd 0x00000002#32]
  | .cmdZeroize => [.wr .cmd 0x00000003#32]
  | .srst => [.wr .ctrl 0x00000002#32]
  | .ldk words => (List.finRange 8).map fun i => .wr (.scalar i) words[i]
  | .pollDone v l => [.label l, .rd .status v, .bz v 0x2#32 l]
  | .clrDone => [.wr .status 0x00000002#32]
  | .rdPub p x => .rd .pubkeyPrefix p :: (List.finRange 8).map fun i => .rd (.pubkeyX i) x[i]

/-- Every branch has its label exactly once in the program. -/
def wellLabelled (prog : List Stmt) : Bool :=
  prog.all fun
    | .bnz _ _ l => prog.count (.label l) == 1
    | .bz _ _ l => prog.count (.label l) == 1
    | _ => true

/-- A master at a line of its program, with its variables. -/
structure Master where
  line : Nat
  vars : List (Nat × Word)
deriving DecidableEq, Repr

/-- The value of a variable; one never read into holds 0 (log 18). -/
def Master.value (m : Master) (v : Nat) : Word := (m.vars.lookup v).getD 0#32

/-- Store a variable and go to the next line. -/
def Master.store (m : Master) (v : Nat) (w : Word) : Master :=
  { line := m.line + 1, vars := (v, w) :: m.vars.filter fun x => x.1 != v }

/-- Go to the next line. -/
def Master.advance (m : Master) : Master := { m with line := m.line + 1 }

/-- Go to a label (R79). DESIGN CHOICE (log 18), since the spec is silent on both: a label defined more than once is its
first occurrence, and a program without the label ends there. -/
def Master.jump (m : Master) (prog : List Stmt) (l : Nat) : Master := { m with line := prog.idxOf (.label l) }

/-- A master and the machine it drives. -/
abbrev System := Master × State

/-- The machine takes one given event; the master goes on by what it then sees. -/
def takeEvent (e : Event) (s : State) (goOn : State → Master) : Host.Outcome System Fault Refusal :=
  match step (s.withAgenda (e :: s.agenda)) with
  | .next t => .next (goOn t, t)
  | .fault r => .fault r
  | .refused r => .refused r

/-- The read data of the last response. -/
def State.rdata (s : State) : Word := (s.response.map Response.rdata).getD 0#32

/-- One statement of a master's program (R79). Branches, labels and waits are host control flow and reach the block by
no transaction; a program past its last line stays. -/
def masterTurn (prog : List Stmt) (m : Master) (s : State) : Host.Outcome System Fault Refusal :=
  match prog[m.line]? with
  | none => .next (m, s)
  | some (.wr reg imm) => takeEvent (.host (memWrite reg.off imm)) s fun _ => m.advance
  | some (.rd reg v) => takeEvent (.host (memRead reg.off)) s fun t => m.store v t.rdata
  | some (.label _) => .next (m.advance, s)
  | some (.bnz v mask l) => .next (if m.value v &&& mask ≠ 0#32 then m.jump prog l else m.advance, s)
  | some (.bz v mask l) => .next (if m.value v &&& mask = 0#32 then m.jump prog l else m.advance, s)
  | some .waitIrq => .next (if irq s.regs then m.advance else m, s)

/-- Whose turn it is: the three agents of R9, interleaved in any order. -/
inductive Turn where
  | master
  | engine
  | reset
deriving DecidableEq, Repr

/-- One turn of the closed system. -/
def systemTurn (prog : List Stmt) (sys : System) : Turn → Host.Outcome System Fault Refusal
  | .master => masterTurn prog sys.1 sys.2
  | .engine => takeEvent .engine sys.2 fun _ => sys.1
  | .reset => takeEvent .reset sys.2 fun _ => sys.1

/-- A run of the closed system under one order of turns. -/
def systemRun (prog : List Stmt) : List Turn → System → Host.Outcome System Fault Refusal
  | [], sys => .next sys
  | turn :: rest, sys =>
    match systemTurn prog sys turn with
    | .next sys' => systemRun prog rest sys'
    | .fault r => .fault r
    | .refused r => .refused r

/-- Steps 3 to 8 of R245 for a key whose validity the host has checked: load, MULT, wait, read, ZEROIZE. -/
def derivation (words : Words8) (v l p : Nat) (x : Vector Nat 8) : List Stmt :=
  Pseudo.expand (.ldk words) ++ Pseudo.expand .cmdMult ++ Pseudo.expand (.pollDone v l) ++
    Pseudo.expand (.rdPub p x) ++ Pseudo.expand .cmdZeroize

end Sys2Proof.Machine
end

