-- ==== Sys2Proof/Safety.lean ====
section
/-! DEFINITION. What counts as a safe run (00_scope.md R10), the invariants of the block (10_state.md R36) and the words
in which claims speak of a step's cause. -/

namespace Sys2Proof

/-- The word an instruction writes to CMD (R74, R110). -/
def Instr.cmdWord : Instr → Option Word
  | .nop => some 0x00000000#32
  | .validate => some 0x00000001#32
  | .mult => some 0x00000002#32
  | .zeroize => some 0x00000003#32
  | .wrCmd w => some w
  | _ => none

/-- The instruction is a read (R71, `W = 0`). -/
def Instr.isRead : Instr → Bool
  | .rdId | .rdCtrl | .rdStatus | .rdCmd | .rdPubkeyPrefix => true
  | .rdScalar _ | .rdPubkeyX _ => true
  | _ => false

end Sys2Proof

namespace Sys2Proof.Machine

/-- No fault recorded (R10): the premise of claims about correct host programs. -/
abbrev State.Safe (s : State) : Prop := s.faultMark = false

/-- PUBKEY is all zero. -/
abbrev Regs.pubkeyZero (r : Regs) : Prop := r.pubkeyPrefix = 0x00#8 ∧ r.pubkeyX = zeroWords

/-- (I1) of R36. -/
abbrev Regs.I1 (r : Regs) : Prop := r.busy = true → r.fault = false
/-- (I2) of R36. -/
abbrev Regs.I2 (r : Regs) : Prop := r.busy = true → r.outValid = false
/-- (I3) of R36. -/
abbrev Regs.I3 (r : Regs) : Prop := r.busy = true → r.done = false ∧ 1 ≤ r.k.toNat ∧ r.k.toNat ≤ groupOrder - 1
/-- (I4) of R36. -/
abbrev Regs.I4 (r : Regs) : Prop := r.outValid = false → r.pubkeyZero
/-- (I5) of R36. -/
abbrev Regs.I5 (r : Regs) : Prop := r.fault = true → r.errcode = 0x1#4 ∧ r.valid = false
/-- (I6) of R36. -/
abbrev Regs.I6 (r : Regs) : Prop := r.busy = false → r.k = 0#256
/-- (I7) of R36. -/
abbrev Regs.I7 (r : Regs) : Prop := r.outValid = true → r.pubkeyPrefix = 0x02#8 ∨ r.pubkeyPrefix = 0x03#8
/-- (I8) of R36. -/
abbrev Regs.I8 (r : Regs) : Prop := r.reason ≠ 3#2 ∧ r.errcode.toNat ≤ 2

/-- The invariants (I1) to (I8) that the rules keep from reset onward (R36). -/
abbrev Regs.Inv (r : Regs) : Prop := r.I1 ∧ r.I2 ∧ r.I3 ∧ r.I4 ∧ r.I5 ∧ r.I6 ∧ r.I7 ∧ r.I8

/-- Further relations of the flags that the rules imply: VALID goes with REASON (R29); a running MULT holds VALID 1 and
ERRCODE NONE (R163); in the fault state there is no result (R192) and REASON names the cause (R213); INVALID_SCALAR is
the fault state's code (R30). -/
abbrev Regs.FlagInv (r : Regs) : Prop :=
  (r.valid = true → r.reason = reasonInRange) ∧
  (r.busy = true → r.valid = true ∧ r.errcode = errNone) ∧
  (r.fault = true → r.outValid = false ∧ (r.reason = reasonZero ∨ r.reason = reasonGeOrder)) ∧
  (r.errcode = errInvalidScalar → r.fault = true)

/-- The invariant of the machine: from the first reset on the registers meet R36 (before it they hold anything, R244). -/
abbrev State.Inv (s : State) : Prop := s.resetSeen = true → s.regs.Inv

/-- `State.Inv`, the further flag relations, and the fault mark of R10 present whenever the block is in the fault
state. -/
abbrev State.FullInv (s : State) : Prop :=
  s.resetSeen = true → s.regs.Inv ∧ s.regs.FlagInv ∧ (s.regs.fault = true → s.faultMark = true)

/-- The instruction that the next step runs, if that step is a Host operation of some row. -/
def State.nextInstr (s : State) : Option Instr :=
  match s.agenda with
  | .host op :: _ =>
    match decode op with
    | .ok i => some i
    | .error _ => none
  | _ => none

/-- The word the next step writes to CMD. -/
def State.nextCmd (s : State) : Option Word := s.nextInstr.bind Instr.cmdWord

/-- The next step is a reset: the hardware reset or a write of 1 to CTRL.SRST (R240). -/
def State.nextIsReset (s : State) : Bool :=
  match s.agenda with
  | .reset :: _ => true
  | _ =>
    match s.nextInstr with
    | some (.wrCtrl w) => w[1]
    | _ => false

/-- The next step is a turn of the Engine. -/
def State.nextIsEngine (s : State) : Bool :=
  match s.agenda with
  | [] => true
  | .engine :: _ => true
  | _ => false

/-- An event that is no reset of either kind: a running MULT outlives it (R242). -/
def Event.sparesEngine : Event → Bool
  | .reset => false
  | .engine => true
  | .host op =>
    match decode op with
    | .ok (.wrCtrl w) => !w[1]
    | _ => true

/-- `n` steps of the machine, stopping at the first refusal: `Host.Core.run` of this machine, on `State` itself. -/
def runSteps : Nat → State → Result
  | 0, s => .next s
  | n + 1, s =>
    match step s with
    | .next t => runSteps n t
    | .fault r => .fault r
    | .refused r => .refused r

/-- Two register states that differ at most in the secrets SCALAR and K. -/
def Regs.sameButSecrets (a b : Regs) : Prop := { a with scalar := b.scalar, k := b.k } = b

end Sys2Proof.Machine
end

