-- ==== Sys2Proof/Certificates/Slice0/Obligations.lean ====
section
/-! DEFINITION. The statements for the provers, from the spec's numbered rules. Every instruction answers a next state
here under hypotheses on the state and operands alone; an equality of whole states is also the frame: what it does not
name is unchanged. The block has no memory (R50, R51), so no frame speaks of memory. -/

open Sys2Proof Sys2Proof.Machine

/-! ### Reset -/

/-- R241, by the hardware reset: every register at its reset value, from any state, and what then reads. -/
def Obligations.HardwareResetGivesResetValues : Prop :=
  ∀ (s : State) (rest : List Event), s.agenda = .reset :: rest →
    ∃ t, step s = .next t ∧
      t.regs.irqEn = false ∧ t.regs.busy = false ∧ t.regs.done = false ∧ t.regs.valid = false ∧
      t.regs.outValid = false ∧ t.regs.fault = false ∧ t.regs.drop = false ∧
      t.regs.reason = 0#2 ∧ t.regs.errcode = 0x0#4 ∧
      (∀ i : Fin 8, t.regs.scalar[i] = 0#32 ∧ t.regs.pubkeyX[i] = 0#32) ∧
      t.regs.pubkeyPrefix = 0x00#8 ∧ t.regs.k = 0#256 ∧
      exec .rdStatus t = .next { t with response := some ⟨.ok, 0#32⟩ } ∧
      exec .rdCtrl t = .next { t with response := some ⟨.ok, 0#32⟩ } ∧
      exec .rdId t = .next { t with response := some ⟨.ok, 0x534B3101#32⟩ } ∧
      exec .rdPubkeyPrefix t = .next { t with response := some ⟨.ok, 0#32⟩ } ∧
      (∀ i : Fin 8, exec (.rdPubkeyX i) t = .next { t with response := some ⟨.ok, 0#32⟩ }) ∧
      irq t.regs = false ∧ phase t.regs = .idle

/-- R244: before the first reset, whatever the registers hold, no Host step is admitted, and the reset leads to the reset
state. -/
def Obligations.NoHostStepBeforeFirstReset : Prop :=
  ∀ (r : Regs) (op : HostOp) (rest : List Event),
    step { State.powerUp r with agenda := .host op :: rest } = .refused .beforeFirstReset ∧
    step { State.powerUp r with agenda := .reset :: rest } = .next { State.reset with agenda := rest }

/-! ### Register access -/

/-- R103. -/
def Obligations.ReadIdReturnsConstant : Prop :=
  ∀ s : State, exec .rdId s = .next { s with response := some ⟨.ok, 0x534B3101#32⟩ }

/-- R105: IRQ_EN in bit 0, every other bit 0. -/
def Obligations.ReadCtrlReturnsIrqEn : Prop :=
  ∀ s : State, ∃ v : Word, exec .rdCtrl s = .next { s with response := some ⟨.ok, v⟩ } ∧
    v.getLsbD 0 = s.regs.irqEn ∧ ∀ j, 1 ≤ j → v.getLsbD j = false

/-- R106: SRST resets every register in every phase; without it only IRQ_EN is written. -/
def Obligations.WriteCtrlResetsOrSetsIrqEn : Prop :=
  ∀ (s : State) (w : Word),
    exec (.wrCtrl w) s =
      if w[1] = true then .next { s with regs := Regs.reset, response := some ⟨.ok, 0#32⟩ }
      else .next { s with regs := { s.regs with irqEn := w[0] }, response := some ⟨.ok, 0#32⟩ }

/-- R107: the layout of the STATUS word. -/
def Obligations.ReadStatusLayout : Prop :=
  ∀ s : State, ∃ v : Word, exec .rdStatus s = .next { s with response := some ⟨.ok, v⟩ } ∧
    v.toNat = s.regs.errcode.toNat * 2 ^ 12 + s.regs.reason.toNat * 2 ^ 8 + s.regs.drop.toNat * 2 ^ 5 +
      s.regs.fault.toNat * 2 ^ 4 + s.regs.outValid.toNat * 2 ^ 3 + s.regs.valid.toNat * 2 ^ 2 +
      s.regs.done.toNat * 2 ^ 1 + s.regs.busy.toNat

/-- R108: write-one-to-clear on DONE and DROP, nothing else. -/
def Obligations.WriteStatusClearsDoneAndDrop : Prop :=
  ∀ (s : State) (w : Word),
    exec (.wrStatus w) s = .next { s with
      regs := { s.regs with
        done := if w[1] = true then false else s.regs.done
        drop := if w[5] = true then false else s.regs.drop }
      response := some ⟨.ok, 0#32⟩ }

/-- R109 and R113: the write-only registers read 0 with `OK`. -/
def Obligations.WriteOnlyRegistersReadZero : Prop :=
  ∀ s : State, exec .rdCmd s = .next { s with response := some ⟨.ok, 0#32⟩ } ∧
    ∀ i : Fin 8, exec (.rdScalar i) s = .next { s with response := some ⟨.ok, 0#32⟩ }

/-- R111 and R115: the result registers, which read 0 while OUT_VALID is 0 (in a state that meets R36). -/
def Obligations.ResultRegistersRead : Prop :=
  ∀ s : State,
    (∃ v : Word, exec .rdPubkeyPrefix s = .next { s with response := some ⟨.ok, v⟩ } ∧
      v.toNat = s.regs.pubkeyPrefix.toNat ∧
      (s.regs.Inv → s.regs.outValid = false → v = 0#32)) ∧
    ∀ i : Fin 8, exec (.rdPubkeyX i) s = .next { s with response := some ⟨.ok, s.regs.pubkeyX[i]⟩ } ∧
      (s.regs.Inv → s.regs.outValid = false → s.regs.pubkeyX[i] = 0#32)

/-- R104, R112 and R116: a write to a read-only register answers `ERR` and changes nothing. -/
def Obligations.ReadOnlyRegistersRejectWrites : Prop :=
  ∀ (s : State) (w : Word),
    exec (.wrId w) s = .next { s with response := some ⟨.err, 0#32⟩ } ∧
    exec (.wrPubkeyPrefix w) s = .next { s with response := some ⟨.err, 0#32⟩ } ∧
    ∀ i : Fin 8, exec (.wrPubkeyX i w) s = .next { s with response := some ⟨.err, 0#32⟩ }

/-- R114: the word is stored when BUSY is 0, also in the fault state; the write is dropped when BUSY is 1. -/
def Obligations.WriteScalarStoresOrDrops : Prop :=
  ∀ (s : State) (i : Fin 8) (w : Word),
    (s.regs.busy = false → ∃ words : Words8,
      exec (.wrScalar i w) s = .next { s with
        regs := { s.regs with scalar := words }, response := some ⟨.ok, 0#32⟩ } ∧
      words[i] = w ∧ ∀ j : Fin 8, j ≠ i → words[j] = s.regs.scalar[j]) ∧
    (s.regs.busy = true →
      exec (.wrScalar i w) s = .next { s with
        regs := { s.regs with drop := true }, response := some ⟨.ok, 0#32⟩ })

/-- R216: while BUSY every CMD and SCALAR write only sets DROP; CTRL and STATUS writes take their full effect. -/
def Obligations.WritesWhileBusyAreDropped : Prop :=
  ∀ s : State, s.regs.busy = true →
    (∀ i : Instr, (i.cmdWord ≠ none ∨ ∃ n w, i = .wrScalar n w) →
      exec i s = .next { s with regs := { s.regs with drop := true }, response := some ⟨.ok, 0#32⟩ }) ∧
    ∀ w : Word,
      exec (.wrCtrl w) s = .next { s with
        regs := if w[1] = true then Regs.reset else { s.regs with irqEn := w[0] }
        response := some ⟨.ok, 0#32⟩ } ∧
      exec (.wrStatus w) s = .next { s with
        regs := { s.regs with done := s.regs.done && !w[1], drop := s.regs.drop && !w[5] }
        response := some ⟨.ok, 0#32⟩ }

/-- R59: a read changes no register, and a second read gives the same data: for every read instruction, and for every
read transaction at every offset, those that answer `ERR` included. -/
def Obligations.ReadsHaveNoSideEffects : Prop :=
  (∀ (i : Instr) (s : State), i.isRead = true →
    ∃ t, exec i s = .next t ∧ t.regs = s.regs ∧ t.faultMark = s.faultMark ∧ t.agenda = s.agenda ∧
      exec i t = .next t) ∧
  ∀ (s : State) (t : Transaction) (rest : List Event), s.resetSeen = true → t.write = false →
    s.agenda = .host (.bus t) :: .host (.bus t) :: rest →
    ∃ u v, step s = .next u ∧ step u = .next v ∧ u.regs = s.regs ∧ v.regs = s.regs ∧ u.response = v.response

/-! ### Scalars -/

/-- R130 and its bound: the scalar is the big-endian sum of its eight words. -/
def Obligations.ScalarValueIsBigEndianSum : Prop :=
  ∀ w : Words8, scalarValue w = ∑ i : Fin 8, w[i].toNat * 2 ^ (32 * (7 - i.val)) ∧ scalarValue w < 2 ^ 256

/-- R53: packed from 32 bytes, the scalar is their big-endian integer. -/
def Obligations.ScalarPackingKeepsTheBytes : Prop :=
  ∀ b : Vector Byte 32, scalarValue (packScalar b) = beInt b ∧
    ∀ i : Fin 8, (packScalar b)[i].toNat =
      b[4 * i.val].toNat * 2 ^ 24 + b[4 * i.val + 1].toNat * 2 ^ 16 + b[4 * i.val + 2].toNat * 2 ^ 8 +
        b[4 * i.val + 3].toNat

/-- R131, R132 and R134: the classification, with the order written out, and the boundaries. -/
def Obligations.ClassifyDecidesValidity : Prop :=
  (∀ k : Nat,
    ((classify k).1 = true ↔
      1 ≤ k ∧ k < 0xFFFFFFFF_FFFFFFFF_FFFFFFFF_FFFFFFFE_BAAEDCE6_AF48A03B_BFD25E8C_D0364141) ∧
    ((classify k).2 = 0#2 ↔ (classify k).1 = true) ∧
    ((classify k).2 = 1#2 ↔ k = 0) ∧
    ((classify k).2 = 2#2 ↔ 0xFFFFFFFF_FFFFFFFF_FFFFFFFF_FFFFFFFE_BAAEDCE6_AF48A03B_BFD25E8C_D0364141 ≤ k)) ∧
  classify (groupOrder - 1) = (true, 0#2) ∧ classify groupOrder = (false, 2#2) ∧ classify 0 = (false, 1#2) ∧
  classify 1 = (true, 0#2) ∧ classify (groupOrder + 1) = (false, 2#2) ∧ classify (2 ^ 256 - 1) = (false, 2#2)

/-! ### Commands -/

/-- R74 and R110: a command word issued is the CMD write of that word, in every state. -/
def Obligations.CommandWordsDispatch : Prop :=
  ∀ s : State, exec (.wrCmd 0#32) s = exec .nop s ∧ exec (.wrCmd 1#32) s = exec .validate s ∧
    exec (.wrCmd 2#32) s = exec .mult s ∧ exec (.wrCmd 3#32) s = exec .zeroize s

/-- R190. -/
def Obligations.NopAccepted : Prop :=
  ∀ s : State, s.regs.busy = false → s.regs.fault = false →
    exec .nop s = .next { s with
      regs := { s.regs with errcode := 0x0#4, done := true }, response := some ⟨.ok, 0#32⟩ }

/-- R133. -/
def Obligations.ValidateAccepted : Prop :=
  ∀ s : State, s.regs.busy = false → s.regs.fault = false →
    exec .validate s = .next { s with
      regs := { s.regs with
        valid := decide (1 ≤ scalarValue s.regs.scalar ∧ scalarValue s.regs.scalar < groupOrder)
        reason := if scalarValue s.regs.scalar = 0 then 1#2
          else if groupOrder ≤ scalarValue s.regs.scalar then 2#2 else 0#2
        errcode := 0x0#4
        done := true }
      response := some ⟨.ok, 0#32⟩ }

/-- R162 and R213. The old result is destroyed and VALID and REASON take the class of the scalar. A valid scalar: K is
loaded, BUSY is set and DONE stays 0. An invalid one: the fault entry, the response still `OK`, BUSY 0 and K not loaded,
with the fault mark that R10 and R213 ask of a model. -/
def Obligations.MultAccepted : Prop :=
  ∀ s : State, s.regs.busy = false → s.regs.fault = false →
    (1 ≤ scalarValue s.regs.scalar ∧ scalarValue s.regs.scalar < groupOrder →
      exec .mult s = .next { s with
        regs := { s.regs with
          valid := true
          reason := 0#2
          outValid := false
          pubkeyPrefix := 0x00#8
          pubkeyX := Vector.replicate 8 0#32
          k := BitVec.ofNat 256 (scalarValue s.regs.scalar)
          errcode := 0x0#4
          busy := true
          done := false }
        response := some ⟨.ok, 0#32⟩ }) ∧
    (¬ (1 ≤ scalarValue s.regs.scalar ∧ scalarValue s.regs.scalar < groupOrder) →
      exec .mult s = .next { s with
        regs := { s.regs with
          valid := false
          reason := if scalarValue s.regs.scalar = 0 then 1#2 else 2#2
          outValid := false
          pubkeyPrefix := 0x00#8
          pubkeyX := Vector.replicate 8 0#32
          fault := true
          errcode := 0x1#4
          done := true }
        faultMark := true
        response := some ⟨.ok, 0#32⟩ })

/-- R191. -/
def Obligations.ZeroizeAccepted : Prop :=
  ∀ s : State, s.regs.busy = false → s.regs.fault = false →
    exec .zeroize s = .next { s with
      regs := { s.regs with
        scalar := Vector.replicate 8 0#32
        k := 0#256
        pubkeyPrefix := 0x00#8
        pubkeyX := Vector.replicate 8 0#32
        outValid := false
        valid := false
        reason := 0#2
        errcode := 0x0#4
        done := true }
      response := some ⟨.ok, 0#32⟩ }

/-- R192 and R214's FaultedCmd: in the fault state ZEROIZE clears the data, keeps the record of the fault and sets DONE;
every other command word, defined or not, only sets DONE. -/
def Obligations.CommandsInFaultState : Prop :=
  ∀ s : State, s.regs.busy = false → s.regs.fault = true →
    (∀ i : Instr, i.cmdWord = some 3#32 → exec i s = .next { s with
      regs := { s.regs with
        scalar := Vector.replicate 8 0#32
        k := 0#256
        pubkeyPrefix := 0x00#8
        pubkeyX := Vector.replicate 8 0#32
        outValid := false
        done := true }
      response := some ⟨.ok, 0#32⟩ }) ∧
    ∀ (i : Instr) (w : Word), i.cmdWord = some w → w ≠ 3#32 →
      exec i s = .next { s with regs := { s.regs with done := true }, response := some ⟨.ok, 0#32⟩ }

/-- R75 and R193: every word from 4 up is an illegal command, decoded as such and completed at once. -/
def Obligations.IllegalCommandReported : Prop :=
  ∀ (s : State) (w : Word), 4 ≤ w.toNat → s.regs.busy = false → s.regs.fault = false →
    decode (.cmd w) = .ok (.wrCmd w) ∧
    exec (.wrCmd w) s = .next { s with
      regs := { s.regs with errcode := 0x2#4, done := true }, response := some ⟨.ok, 0#32⟩ }

/-! ### The Engine -/

/-- R163: the completion, in one step, of a running MULT whose product is the affine point `(x, y)`; with BUSY 0 no
Engine turn changes a register, whichever state it answers (that it answers one is log 3, in `EventsOfTheAgenda`). -/
def Obligations.EngineCompletesMult : Prop :=
  ∀ (s : State) (rest : List Event), s.resetSeen = true → s.agenda = .engine :: rest →
    (∀ x y : Nat, s.regs.busy = true → Point.mul s.regs.k.toNat generator = .affine x y →
      step s = .next { s with
        regs := { s.regs with
          pubkeyPrefix := if y % 2 = 0 then 0x02#8 else 0x03#8
          pubkeyX := Vector.ofFn fun i : Fin 8 => BitVec.ofNat 32 (x / 2 ^ (32 * (7 - i.val)))
          outValid := true
          k := 0#256
          busy := false
          done := true }
        agenda := rest }) ∧
    (s.regs.busy = false → ∀ t, step s = .next t → t.regs = s.regs)

/-- How the agenda drives the machine beside Host operations, the model's own choices (log 2, log 3, log 7): an Engine
turn completes a running MULT and passes otherwise (R163 enables the step only while BUSY), an empty agenda gives the
Engine its turn, and a hardware reset, taken in every state, leaves the waiting events, the last response and the fault
mark. -/
def Obligations.EventsOfTheAgenda : Prop :=
  (∀ s : State, s.resetSeen = true →
    (s.regs.busy = false → step { s with agenda := [] } = .next { s with agenda := [] } ∧
      ∀ rest, step { s with agenda := .engine :: rest } = .next { s with agenda := rest }) ∧
    (s.regs.busy = true → ∃ r : Regs, r.busy = false ∧ r.done = true ∧ r.outValid = true ∧
      step { s with agenda := [] } = .next { s with regs := r, agenda := [] } ∧
      ∀ rest, step { s with agenda := .engine :: rest } = .next { s with regs := r, agenda := rest })) ∧
  ∀ (s : State) (rest : List Event), s.agenda = .reset :: rest →
    step s = .next { s with regs := Regs.reset, resetSeen := true, agenda := rest }

/-- R54 and R161: the parity byte, then exactly 32 bytes whose big-endian integer is `x`, four to a word; a host that
reads the prefix byte and the words rebuilds that key, and the words' value is `x`. -/
def Obligations.CompressedKeyIsRebuilt : Prop :=
  ∀ x y : Nat, x < 2 ^ 256 →
    (compress x y)[0] = (if y % 2 = 0 then 0x02#8 else 0x03#8) ∧
    beInt (Vector.ofFn fun i : Fin 32 => (compress x y)[i.val + 1]) = x ∧
    (∀ i : Fin 8, (packX (compress x y))[i].toNat =
      (compress x y)[1 + 4 * i.val].toNat * 2 ^ 24 + (compress x y)[2 + 4 * i.val].toNat * 2 ^ 16 +
        (compress x y)[3 + 4 * i.val].toNat * 2 ^ 8 + (compress x y)[4 + 4 * i.val].toNat) ∧
    emitKey (compress x y)[0] (packX (compress x y)) = compress x y ∧
    scalarValue (packX (compress x y)) = x

/-- R165: MULT and its completion give the same key for the same scalar, whatever else the two states hold. -/
def Obligations.ResultDependsOnScalarAlone : Prop :=
  ∀ (s u : State) (restS restU : List Event), s.resetSeen = true → u.resetSeen = true →
    s.regs.busy = false → u.regs.busy = false → s.regs.fault = false → u.regs.fault = false →
    s.regs.scalar = u.regs.scalar → 1 ≤ scalarValue s.regs.scalar → scalarValue s.regs.scalar < groupOrder →
    s.agenda = .host (.cmd 2#32) :: .engine :: restS → u.agenda = .host (.cmd 2#32) :: .engine :: restU →
    ∃ s' u', runSteps 2 s = .next s' ∧ runSteps 2 u = .next u' ∧
      s'.regs.outValid = true ∧ u'.regs.outValid = true ∧
      s'.regs.pubkeyPrefix = u'.regs.pubkeyPrefix ∧ s'.regs.pubkeyX = u'.regs.pubkeyX

/-- R35, R216 and C2: a Host operation that is no reset leaves a running MULT running, with its snapshot, its scalar and
every register but IRQ_EN, DONE and DROP. -/
def Obligations.RunningMultIsUndisturbed : Prop :=
  ∀ s t : State, s.regs.busy = true → s.nextIsReset = false → s.nextIsEngine = false → step s = .next t →
    ∃ irqEn done drop : Bool, t.regs = { s.regs with irqEn := irqEn, done := done, drop := drop }

/-- R252, by the model's form of fairness (log 2): a running MULT that no reset meets completes within one step more than
the events that wait. -/
def Obligations.RunningMultCompletes : Prop :=
  ∀ s : State, s.resetSeen = true → s.regs.busy = true → (∀ e ∈ s.agenda, e.sparesEngine = true) →
    ∃ n t, 1 ≤ n ∧ n ≤ s.agenda.length + 1 ∧ runSteps n s = .next t ∧
      t.regs.busy = false ∧ t.regs.done = true ∧ t.regs.outValid = true ∧ t.regs.k = 0#256 ∧
      t.regs.pubkeyPrefix = (multKey s.regs.k)[0] ∧ t.regs.pubkeyX = packX (multKey s.regs.k)

/-- R245, steps 3, 5 and 6, and R162, R163: from any idle state, eight SCALAR writes of a valid key, MULT and the
Engine's turn leave the compressed form of `k·G` to read. -/
def Obligations.DerivationGivesCompressedKey : Prop :=
  ∀ (s : State) (words : Words8) (rest : List Event) (x y : Nat),
    s.resetSeen = true → s.regs.busy = false → s.regs.fault = false →
    1 ≤ scalarValue words → scalarValue words < groupOrder →
    Point.mul (scalarValue words) generator = .affine x y →
    s.agenda = ((List.finRange 8).map fun i => Event.host (memWrite (RegName.off (.scalar i)) words[i])) ++
      .host (memWrite (RegName.off .cmd) 2#32) :: .engine :: rest →
    ∃ t, runSteps 10 s = .next t ∧ t.agenda = rest ∧ t.regs.scalar = words ∧
      t.regs.outValid = true ∧ t.regs.done = true ∧ t.regs.busy = false ∧ t.regs.fault = false ∧
      emitKey t.regs.pubkeyPrefix t.regs.pubkeyX = compress x y

/-! ### The curve -/

/-- R154, in part: the generator's coordinates, that it is on the curve, and `n·G = O`. That no smaller positive multiple
is `O` is `ValidScalarGivesAffinePoint`. -/
def Obligations.OrderTimesGeneratorIsInfinity : Prop :=
  generator = .affine 0x79BE667E_F9DCBBAC_55A06295_CE870B07_029BFCDB_2DCE28D9_59F2815B_16F81798
      0x483ADA77_26A3C465_5DA4FBFC_0E1108A8_FD17B448_A6855419_9C47D08F_FB10D4B8 ∧
    generator.onCurve = true ∧ Point.mul groupOrder generator = .infinity

/-- R153: no point of the curve has `y = 0`. -/
def Obligations.NoCurvePointHasZeroY : Prop :=
  ∀ x y : Nat, (Point.affine x y).onCurve = true → y ≠ 0

/-- R151: the field operations, and that the Fermat inverse is an inverse. R151 gives `inv_p(a)` for `a ≠ 0` alone; that the
formula holds at 0 too is the model's choice (log 12). -/
def Obligations.FieldOperations : Prop :=
  ∀ a b : Nat, addP a b = (a + b) % fieldPrime ∧ ((subP a b : Nat) : Int) = ((a : Int) - b) % fieldPrime ∧
    mulP a b = (a * b) % fieldPrime ∧ invP a = a ^ (fieldPrime - 2) % fieldPrime ∧
    (a % fieldPrime ≠ 0 → mulP a (invP a) = 1)

/-- R155 and R156: the sum of two points of the curve and the negative of a point are points of the curve, and a point
and its negative add to `O`. -/
def Obligations.AdditionStaysOnCurve : Prop :=
  ∀ p q : Point, p.onCurve = true → q.onCurve = true →
    (p.add q).onCurve = true ∧ p.neg.onCurve = true ∧ p.add p.neg = .infinity ∧ p.neg.add p = .infinity

/-- R157: on the curve the slope formula of R156 never asks for the inverse of 0, in a doubling or in a chord; and the
doubling is met by equal points alone. -/
def Obligations.SlopeNeverInvertsZero : Prop :=
  ∀ x1 y1 x2 y2 : Nat, (Point.affine x1 y1).onCurve = true → (Point.affine x2 y2).onCurve = true →
    ¬ (x1 = x2 ∧ (y1 + y2) % fieldPrime = 0) →
    (x1 = x2 → y1 = y2 ∧ mulP 2 y1 ≠ 0) ∧ (x1 ≠ x2 → subP x2 x1 ≠ 0)

/-- R159: for every point of the curve the double-and-add of the reference algorithm is the repeated addition of
R158. -/
def Obligations.DoubleAndAddIsRepeatedAddition : Prop :=
  ∀ (p : Point) (k : Nat), p.onCurve = true → k < 2 ^ 256 → Point.mul k p = p.repeatAdd k

/-- R160: no valid scalar gives the point at infinity, so the free value of log 11 is never used. -/
def Obligations.ValidScalarGivesAffinePoint : Prop :=
  ∀ k : Nat, 1 ≤ k → k ≤ groupOrder - 1 → ∃ x y, Point.mul k generator = .affine x y

/-- 95_test_vectors.md, section 2.3: `x((n−k)·G) = x(k·G)`, with the opposite parity byte. -/
def Obligations.NegatedScalarHasOppositePrefix : Prop :=
  ∀ k : Nat, 1 ≤ k → k ≤ groupOrder - 1 → ∃ x y z, Point.mul k generator = .affine x y ∧
    Point.mul (groupOrder - k) generator = .affine x z ∧ parityByte y ≠ parityByte z

/-! ### Encoding -/

/-- Sample words, written out from the encodings of R71, R72 and R74: group ‖ index ‖ align below the W bit. That a word of
32 bits is a command and one of another length a transaction, selector in bits 8:0 and data in bits 40:9, is the model's
choice (log 8). -/
def Obligations.SampleWordsDecode : Prop :=
  decodeTableWord 32 0b00000000000000000000000000000010 = some .mult ∧
  decodeTableWord 32 0b00000000000000000000000000000011 = some .zeroize ∧
  decodeTableWord 16 0b0_000_010_00 = some .rdStatus ∧
  decodeTableWord 16 0b1_000_011_00 = some (.wrCmd 0#32) ∧
  decodeTableWord 16 0b1_001_101_00 = some (.wrScalar 5 0#32) ∧
  decodeTableWord 16 0b0_010_111_00 = some (.rdPubkeyX 7) ∧
  decodeTableWord 16 0b0_000_101_00 = none ∧ decodeTableWord 16 0b0_000_010_10 = none

/-- R70 to R75: decoding the encoding of an instruction gives it back, with every operand; the encoding is well
formed. -/
def Obligations.DecodeEncode : Prop :=
  ∀ i : Instr, decode (encode i) = .ok i ∧ (encode i).wellFormed = true

/-- R71, R72: every selector decodes to the one row of the opcode table that covers it, and to none if none does; no
selector is covered by two rows. -/
def Obligations.SelectorsDecodeByTheTable : Prop :=
  (∀ (sel : BitVec 9) (w : Word),
    (decodeSelector sel w).toOption.map Instr.mnemonic = (busTable.find? fun r => r.covers sel).map BusRow.mnemonic) ∧
  ∀ sel : BitVec 9, (busTable.filter fun r => r.covers sel).length ≤ 1

/-- R78 and R100: a transaction is some row exactly when it passes the width, strobe, alignment and map checks, and the
first check that fails is the one named. -/
def Obligations.DecodeChecksInOrder : Prop :=
  ∀ t : Transaction,
    (t.wellFormed = true ↔ ∃ i, decode (.bus t) = .ok i) ∧
    ((t.widthOk && t.strobesOk) = false ↔ decode (.bus t) = .error .accessWidth) ∧
    ((t.widthOk && t.strobesOk) = true ∧ t.aligned = false ↔ decode (.bus t) = .error .misaligned) ∧
    ((t.widthOk && t.strobesOk) = true ∧ t.aligned = true ∧ t.mapped = false ↔
      decode (.bus t) = .error .unmapped)

/-- R100, R101 and R102: a transaction of the wrong width, with partial write strobes, misaligned, or at a reserved offset
answers `ERR` with data 0 and changes no register. -/
def Obligations.BadTransactionsAnswerBusError : Prop :=
  ∀ (s : State) (t : Transaction) (rest : List Event), s.resetSeen = true → s.agenda = .host (.bus t) :: rest →
    (t.size ≠ 4 ∨ (t.write = true ∧ t.strb ≠ 0b1111#4) ∨ t.off.toNat % 4 ≠ 0 ∨
      (0x14 ≤ t.off.toNat ∧ t.off.toNat ≤ 0x1F) ∨ 0x60 ≤ t.off.toNat) →
    step s = .next { s with response := some ⟨.err, 0#32⟩, agenda := rest }

/-- A step runs the decoded instruction: what the next Host operation decodes to, at the state without that operation;
and a table word placed is that operation. -/
def Obligations.StepRunsTheDecodedInstruction : Prop :=
  (∀ (s : State) (op : HostOp) (rest : List Event) (i : Instr), s.resetSeen = true →
    s.agenda = .host op :: rest → decode op = .ok i → step s = exec i { s with agenda := rest }) ∧
  ∀ (s : State) (nbits w : Nat) (i : Instr), s.resetSeen = true → decodeTableWord nbits w = some i →
    step (s.withFetchWord nbits w) = exec i s

/-- R50, R79: the window is 256 aligned bytes, an address has its offset inside it and none outside, and the accesses of
a host program by register name are the rows of those registers. -/
def Obligations.WindowAndRegisterNames : Prop :=
  Config.baseAddr % 256 = 0 ∧
  (∀ off : BitVec 8, windowOffset (Config.baseAddr + off.toNat) = some off) ∧
  (∀ a : Nat, a < Config.baseAddr ∨ Config.baseAddr + 0xFF < a → windowOffset a = none) ∧
  ∀ w : Word,
    decode (memRead (RegName.off .id)) = .ok .rdId ∧ decode (memWrite (RegName.off .id) w) = .ok (.wrId w) ∧
    decode (memRead (RegName.off .ctrl)) = .ok .rdCtrl ∧ decode (memWrite (RegName.off .ctrl) w) = .ok (.wrCtrl w) ∧
    decode (memRead (RegName.off .status)) = .ok .rdStatus ∧
    decode (memWrite (RegName.off .status) w) = .ok (.wrStatus w) ∧
    decode (memRead (RegName.off .cmd)) = .ok .rdCmd ∧ decode (memWrite (RegName.off .cmd) w) = .ok (.wrCmd w) ∧
    decode (memRead (RegName.off .pubkeyPrefix)) = .ok .rdPubkeyPrefix ∧
    decode (memWrite (RegName.off .pubkeyPrefix) w) = .ok (.wrPubkeyPrefix w) ∧
    ∀ i : Fin 8,
      decode (memRead (RegName.off (.scalar i))) = .ok (.rdScalar i) ∧
      decode (memWrite (RegName.off (.scalar i)) w) = .ok (.wrScalar i w) ∧
      decode (memRead (RegName.off (.pubkeyX i))) = .ok (.rdPubkeyX i) ∧
      decode (memWrite (RegName.off (.pubkeyX i)) w) = .ok (.wrPubkeyX i w)

/-! ### Invariants and whole-machine rules -/

/-- The reset state meets every invariant (R36, R241). Its last clause, that no fault is recorded in it, is the model's choice
of how to keep the mark of R10 (log 5). -/
def Obligations.ResetMeetsInvariants : Prop := State.reset.FullInv ∧ State.reset.Inv ∧ State.reset.Safe

/-- R36: every step keeps (I1) to (I8). A state before the first reset meets the invariant whatever its registers hold,
so the reset step is covered too: from reset onward. The phase of a state that meets it is that of its flags. -/
def Obligations.StepKeepsInvariants : Prop :=
  ∀ s t : State, s.Inv → step s = .next t → t.Inv ∧
    (t.resetSeen = true →
      (phase t.regs = .idle ↔ t.regs.busy = false ∧ t.regs.fault = false) ∧
      (phase t.regs = .busy ↔ t.regs.busy = true) ∧ (phase t.regs = .faulted ↔ t.regs.fault = true))

/-- R29, R30, R163, R192, R213: every step keeps the further relations of the flags together with R36. -/
def Obligations.StepKeepsFlagRelations : Prop := ∀ s t : State, s.FullInv → step s = .next t → t.FullInv

/-- R23: BUSY is set only by an accepted MULT with a valid scalar, cleared only by its completion or a reset, and while
it is 1 SCALAR and CMD writes are dropped. -/
def Obligations.BusyTransitions : Prop :=
  ∀ s t : State, step s = .next t →
    (s.regs.busy = false → t.regs.busy = true → s.nextCmd = some 2#32 ∧ s.regs.fault = false ∧
      1 ≤ scalarValue s.regs.scalar ∧ scalarValue s.regs.scalar < groupOrder) ∧
    (s.regs.busy = true → t.regs.busy = false →
      s.nextIsReset = true ∨ (s.nextIsEngine = true ∧ t.regs.done = true ∧ t.regs.outValid = true)) ∧
    (s.regs.busy = true → (s.nextCmd ≠ none ∨ ∃ i w, s.nextInstr = some (.wrScalar i w)) →
      t.regs = { s.regs with drop := true })

/-- R24: what clears and what sets DONE, what does not change it, and that nothing else does. -/
def Obligations.DoneTransitions : Prop :=
  ∀ s t : State, step s = .next t →
    (s.nextCmd ≠ none → s.regs.busy = false →
      (t.regs.done = false ↔ s.nextCmd = some 2#32 ∧ s.regs.fault = false ∧
        1 ≤ scalarValue s.regs.scalar ∧ scalarValue s.regs.scalar < groupOrder)) ∧
    (s.resetSeen = true → s.nextIsEngine = true → s.regs.busy = true → t.regs.done = true) ∧
    (s.nextIsReset = true ∨ (∃ w : Word, s.nextInstr = some (.wrStatus w) ∧ w[1] = true) → t.regs.done = false) ∧
    (s.regs.busy = true → (s.nextCmd ≠ none ∨ ∃ i w, s.nextInstr = some (.wrScalar i w)) →
      t.regs.done = s.regs.done) ∧
    (t.regs.done ≠ s.regs.done →
      (s.nextIsEngine = true ∧ s.regs.busy = true) ∨ (s.nextCmd ≠ none ∧ s.regs.busy = false) ∨
      s.nextIsReset = true ∨ ∃ w : Word, s.nextInstr = some (.wrStatus w) ∧ w[1] = true)

/-- R25 and R29: VALID and REASON are written by an accepted VALIDATE or MULT from the scalar, cleared by ZEROIZE outside
the fault state and by reset, and changed by no other step. -/
def Obligations.ValidAndReasonTransitions : Prop :=
  ∀ s t : State, step s = .next t →
    ((s.regs.busy = false ∧ s.regs.fault = false ∧ (s.nextCmd = some 1#32 ∨ s.nextCmd = some 2#32)) →
      t.regs.valid = decide (1 ≤ scalarValue s.regs.scalar ∧ scalarValue s.regs.scalar < groupOrder) ∧
      (t.regs.valid = true ↔ t.regs.reason = 0#2)) ∧
    ((s.regs.busy = false ∧ s.regs.fault = false ∧ s.nextCmd = some 3#32) ∨ s.nextIsReset = true →
      t.regs.valid = false ∧ t.regs.reason = 0#2) ∧
    (t.regs.valid ≠ s.regs.valid ∨ t.regs.reason ≠ s.regs.reason →
      s.nextIsReset = true ∨ (s.regs.busy = false ∧ s.regs.fault = false ∧
        (s.nextCmd = some 1#32 ∨ s.nextCmd = some 2#32 ∨ s.nextCmd = some 3#32)))

/-- R26: OUT_VALID is set only by a MULT completion, cleared by every accepted MULT, by ZEROIZE and by reset, always with
PUBKEY, and a step keeps its invariant. -/
def Obligations.OutValidTransitions : Prop :=
  ∀ s t : State, step s = .next t →
    (s.regs.outValid = false → t.regs.outValid = true → s.nextIsEngine = true ∧ s.regs.busy = true) ∧
    ((s.regs.busy = false ∧ s.regs.fault = false ∧ s.nextCmd = some 2#32) ∨
      (s.regs.busy = false ∧ s.nextCmd = some 3#32) ∨ s.nextIsReset = true →
      t.regs.outValid = false ∧ t.regs.pubkeyZero) ∧
    (s.regs.outValid = true → t.regs.outValid = false → t.regs.pubkeyZero) ∧
    (s.regs.I4 → t.regs.I4)

/-- R27: FAULT is set by a MULT accepted with an invalid scalar and by nothing else, and cleared by reset and by nothing
else. -/
def Obligations.FaultTransitions : Prop :=
  ∀ s t : State, step s = .next t →
    (s.regs.fault = false →
      (t.regs.fault = true ↔ s.nextCmd = some 2#32 ∧ s.regs.busy = false ∧
        ¬ (1 ≤ scalarValue s.regs.scalar ∧ scalarValue s.regs.scalar < groupOrder))) ∧
    (s.regs.fault = true → (t.regs.fault = false ↔ s.nextIsReset = true))

/-- R214, R215 and R30: while the fault state lasts, ERRCODE, REASON and VALID keep their values. -/
def Obligations.FaultRecordIsKept : Prop :=
  ∀ s t : State, s.regs.fault = true → step s = .next t → s.nextIsReset = false →
    t.regs.fault = true ∧ t.regs.errcode = s.regs.errcode ∧ t.regs.reason = s.regs.reason ∧
      t.regs.valid = s.regs.valid

/-- R28: what sets, clears and keeps DROP. -/
def Obligations.DropTransitions : Prop :=
  ∀ s t : State, step s = .next t →
    (s.regs.busy = true ∧ (s.nextCmd ≠ none ∨ ∃ i w, s.nextInstr = some (.wrScalar i w)) → t.regs.drop = true) ∧
    (s.nextIsReset = true ∨ (∃ w : Word, s.nextInstr = some (.wrStatus w) ∧ w[5] = true) → t.regs.drop = false) ∧
    (s.regs.drop = false → t.regs.drop = true →
      s.regs.busy = true ∧ (s.nextCmd ≠ none ∨ ∃ i w, s.nextInstr = some (.wrScalar i w))) ∧
    (s.regs.drop = true → t.regs.drop = false →
      s.nextIsReset = true ∨ ∃ w : Word, s.nextInstr = some (.wrStatus w) ∧ w[5] = true)

/-- R32, R33, R34, R35, R21: which steps write the data registers, K and IRQ_EN. -/
def Obligations.DataRegisterWriters : Prop :=
  ∀ s t : State, step s = .next t → s.nextIsReset = false →
    (t.regs.scalar ≠ s.regs.scalar → s.regs.busy = false ∧
      ((∃ i w, s.nextInstr = some (.wrScalar i w)) ∨ s.nextCmd = some 3#32)) ∧
    (t.regs.pubkeyPrefix ≠ s.regs.pubkeyPrefix ∨ t.regs.pubkeyX ≠ s.regs.pubkeyX →
      (s.nextIsEngine = true ∧ s.regs.busy = true) ∨
      (s.regs.busy = false ∧ (s.nextCmd = some 2#32 ∨ s.nextCmd = some 3#32))) ∧
    (t.regs.k ≠ s.regs.k →
      (s.nextIsEngine = true ∧ s.regs.busy = true) ∨
      (s.regs.busy = false ∧ (s.nextCmd = some 2#32 ∨ s.nextCmd = some 3#32))) ∧
    (t.regs.irqEn ≠ s.regs.irqEn → ∃ w, s.nextInstr = some (.wrCtrl w))

/-- R10: the fault mark is set whenever FAULT goes from 0 to 1, by nothing else, and never cleared; that a reset keeps it
too is the model's reading (log 5). -/
def Obligations.FaultMarkRecordsFaults : Prop :=
  ∀ s t : State, step s = .next t →
    (t.faultMark = true ↔ s.faultMark = true ∨ (s.regs.fault = false ∧ t.regs.fault = true))

/-- R37 and R219: the level of irq, and how it rises and falls with IRQ_EN and DONE. -/
def Obligations.IrqIsEnabledDone : Prop :=
  (∀ r : Regs, irq r = true ↔ r.irqEn = true ∧ r.done = true) ∧ irq State.reset.regs = false ∧
  (∀ s : State, s.regs.done = true → ∃ t, exec (.wrCtrl 1#32) s = .next t ∧ irq t.regs = true) ∧
  (∀ s : State, ∃ t, exec (.wrStatus 2#32) s = .next t ∧ irq t.regs = false) ∧
  ∀ s : State, ∃ t, exec (.wrCtrl 0#32) s = .next t ∧ irq t.regs = false ∧ t.regs.done = s.regs.done

/-- R32, R35 and R226: the response of an instruction is the same in two states that differ only in SCALAR and K. -/
def Obligations.SecretsAreNotReadable : Prop :=
  ∀ (i : Instr) (s u : State), s.regs.sameButSecrets u.regs →
    ∃ s' u', exec i s = .next s' ∧ exec i u = .next u' ∧ s'.response = u'.response
end

