-- ==== Sys2Proof/Laws/Bytes.lean ====
section
/-! SUPPORT. Bytes, words and big-endian integers: how the packings of R53 and R54 read as numbers. -/

namespace Sys2Proof.Machine

/-- The value of four bytes in a word. -/
theorem wordOfBytes_toNat (a b c d : Byte) :
    (wordOfBytes a b c d).toNat = a.toNat * 2 ^ 24 + b.toNat * 2 ^ 16 + c.toNat * 2 ^ 8 + d.toNat := by
  have ha := a.isLt
  have hb := b.isLt
  have hc := c.isLt
  have hd := d.isLt
  simp only [wordOfBytes, BitVec.toNat_append]
  rw [← Nat.shiftLeft_add_eq_or_of_lt (by omega), ← Nat.shiftLeft_add_eq_or_of_lt (by omega),
    ← Nat.shiftLeft_add_eq_or_of_lt (by omega)]
  simp only [Nat.shiftLeft_eq]
  omega

/-- Byte `i` of `be_bytes_L(v)` (R7). -/
theorem beBytes_get (L v i : Nat) (h : i < L) : (beBytes L v)[i] = BitVec.ofNat 8 (v / 256 ^ (L - 1 - i)) := by
  simp [beBytes]

/-- `be_int` reads back what `be_bytes_L` writes when the number fits (R7). -/
theorem beInt_beBytes (L v : Nat) (h : v < 256 ^ L) : beInt (beBytes L v) = v := by
  induction L generalizing v with
  | zero => simp [beInt] at *; omega
  | succ L ih =>
    have hq := ih (v / 256) (by rw [pow_succ] at h; omega)
    rw [beInt, Fin.sum_univ_castSucc]
    have e : ∑ i : Fin L, 256 ^ (L + 1 - 1 - (Fin.castSucc i).val) * ((beBytes (L + 1) v)[Fin.castSucc i]).toNat =
        256 * beInt (beBytes L (v / 256)) := by
      rw [beInt, Finset.mul_sum]
      refine Finset.sum_congr rfl fun i _ => ?_
      have hi := i.isLt
      simp only [Fin.getElem_fin, Fin.val_castSucc, beBytes_get, BitVec.toNat_ofNat]
      rw [show L + 1 - 1 - i.val = (L - 1 - i.val) + 1 by omega, pow_succ, Nat.mul_comm _ 256,
        ← Nat.div_div_eq_div_mul]
      ring
    rw [e, hq]
    simp [beBytes_get]
    omega

/-- The sum of 32 bytes over their indices, for expansion. -/
theorem beInt_32 (b : Vector Byte 32) :
    beInt b = ∑ i ∈ Finset.range 32, 256 ^ (31 - i) * (b[i]?.getD 0#8).toNat := by
  rw [Finset.sum_range]
  refine Finset.sum_congr rfl fun i _ => ?_
  simp

/-- Word `i` of the X coordinate of a compressed key is digit `i` of `x` in base 2^32 (R54, R161). -/
theorem packX_compress_get (x y i : Nat) (h : i < 8) :
    (packX (compress x y))[i] = BitVec.ofNat 32 (x / 2 ^ (32 * (7 - i))) := by
  apply BitVec.eq_of_toNat_eq
  simp only [packX, Vector.getElem_ofFn, compress, wordOfBytes_toNat]
  rw [dif_neg (by omega), dif_neg (by omega), dif_neg (by omega), dif_neg (by omega)]
  simp only [beBytes_get, BitVec.toNat_ofNat]
  have e : ∀ j, (256 : Nat) ^ j = 2 ^ (8 * j) := fun j => by rw [show (256 : Nat) = 2 ^ 8 by rfl, ← pow_mul]
  rw [show 32 - 1 - (1 + 4 * i - 1) = 4 * (7 - i) + 3 by omega,
    show 32 - 1 - (2 + 4 * i - 1) = 4 * (7 - i) + 2 by omega,
    show 32 - 1 - (3 + 4 * i - 1) = 4 * (7 - i) + 1 by omega,
    show 32 - 1 - (4 + 4 * i - 1) = 4 * (7 - i) by omega, pow_add, pow_add, pow_add,
    ← Nat.div_div_eq_div_mul, ← Nat.div_div_eq_div_mul, ← Nat.div_div_eq_div_mul,
    e, show 8 * (4 * (7 - i)) = 32 * (7 - i) by omega]
  generalize x / 2 ^ (32 * (7 - i)) = z
  omega

end Sys2Proof.Machine
end

