-- ==== Sys2Proof/Laws/State.lean ====
section
/-! SUPPORT. One lemma per field per update: every later proof reads a field after an update by these and unfolds no
update. -/

namespace Sys2Proof.Machine

section StateUpdates
variable (s : State) (resp : Resp) (v : Word) (r : Regs) (rest : List Event) (op : HostOp)

@[simp] theorem State.respond_regs : (s.respond resp v).regs = s.regs := rfl
@[simp] theorem State.respond_resetSeen : (s.respond resp v).resetSeen = s.resetSeen := rfl
@[simp] theorem State.respond_faultMark : (s.respond resp v).faultMark = s.faultMark := rfl
@[simp] theorem State.respond_response : (s.respond resp v).response = some ⟨resp, v⟩ := rfl
@[simp] theorem State.respond_agenda : (s.respond resp v).agenda = s.agenda := rfl

@[simp] theorem State.commit_regs : (s.commit r).regs = r := rfl
@[simp] theorem State.commit_resetSeen : (s.commit r).resetSeen = s.resetSeen := rfl
@[simp] theorem State.commit_faultMark :
    (s.commit r).faultMark = (s.faultMark || (!s.regs.fault && r.fault)) := rfl
@[simp] theorem State.commit_response : (s.commit r).response = s.response := rfl
@[simp] theorem State.commit_agenda : (s.commit r).agenda = s.agenda := rfl

@[simp] theorem State.withAgenda_regs : (s.withAgenda rest).regs = s.regs := rfl
@[simp] theorem State.withAgenda_resetSeen : (s.withAgenda rest).resetSeen = s.resetSeen := rfl
@[simp] theorem State.withAgenda_faultMark : (s.withAgenda rest).faultMark = s.faultMark := rfl
@[simp] theorem State.withAgenda_response : (s.withAgenda rest).response = s.response := rfl
@[simp] theorem State.withAgenda_agenda : (s.withAgenda rest).agenda = rest := rfl
@[simp] theorem State.withAgenda_self : s.withAgenda s.agenda = s := rfl

@[simp] theorem State.withNextOp_regs : (s.withNextOp op).regs = s.regs := rfl
@[simp] theorem State.withNextOp_resetSeen : (s.withNextOp op).resetSeen = s.resetSeen := rfl
@[simp] theorem State.withNextOp_agenda : (s.withNextOp op).agenda = .host op :: s.agenda := rfl

end StateUpdates

section RegsUpdates
variable (r : Regs)

@[simp] theorem Regs.doReset_eq : r.doReset = Regs.reset := rfl

@[simp] theorem Regs.dropWrite_drop : r.dropWrite.drop = true := rfl
@[simp] theorem Regs.dropWrite_busy : r.dropWrite.busy = r.busy := rfl
@[simp] theorem Regs.dropWrite_fault : r.dropWrite.fault = r.fault := rfl
@[simp] theorem Regs.dropWrite_k : r.dropWrite.k = r.k := rfl

@[simp] theorem Regs.clearResult_outValid : r.clearResult.outValid = false := rfl
@[simp] theorem Regs.clearResult_pubkeyPrefix : r.clearResult.pubkeyPrefix = 0x00#8 := rfl
@[simp] theorem Regs.clearResult_pubkeyX : r.clearResult.pubkeyX = zeroWords := rfl
@[simp] theorem Regs.clearResult_busy : r.clearResult.busy = r.busy := rfl
@[simp] theorem Regs.clearResult_fault : r.clearResult.fault = r.fault := rfl
@[simp] theorem Regs.clearResult_k : r.clearResult.k = r.k := rfl

@[simp] theorem Regs.wipe_scalar : r.wipe.scalar = zeroWords := rfl
@[simp] theorem Regs.wipe_k : r.wipe.k = 0#256 := rfl
@[simp] theorem Regs.wipe_outValid : r.wipe.outValid = false := rfl
@[simp] theorem Regs.wipe_busy : r.wipe.busy = r.busy := rfl
@[simp] theorem Regs.wipe_fault : r.wipe.fault = r.fault := rfl

@[simp] theorem Regs.raiseInvalidScalar_fault : r.raiseInvalidScalar.fault = true := rfl
@[simp] theorem Regs.raiseInvalidScalar_errcode : r.raiseInvalidScalar.errcode = errInvalidScalar := rfl
@[simp] theorem Regs.raiseInvalidScalar_done : r.raiseInvalidScalar.done = true := rfl
@[simp] theorem Regs.raiseInvalidScalar_busy : r.raiseInvalidScalar.busy = r.busy := rfl
@[simp] theorem Regs.raiseInvalidScalar_k : r.raiseInvalidScalar.k = r.k := rfl

@[simp] theorem Regs.multComplete_busy : r.multComplete.busy = false := rfl
@[simp] theorem Regs.multComplete_done : r.multComplete.done = true := rfl
@[simp] theorem Regs.multComplete_outValid : r.multComplete.outValid = true := rfl
@[simp] theorem Regs.multComplete_k : r.multComplete.k = 0#256 := rfl
@[simp] theorem Regs.multComplete_fault : r.multComplete.fault = r.fault := rfl
@[simp] theorem Regs.multComplete_irqEn : r.multComplete.irqEn = r.irqEn := rfl
@[simp] theorem Regs.multComplete_valid : r.multComplete.valid = r.valid := rfl
@[simp] theorem Regs.multComplete_drop : r.multComplete.drop = r.drop := rfl
@[simp] theorem Regs.multComplete_reason : r.multComplete.reason = r.reason := rfl
@[simp] theorem Regs.multComplete_errcode : r.multComplete.errcode = r.errcode := rfl
@[simp] theorem Regs.multComplete_scalar : r.multComplete.scalar = r.scalar := rfl
@[simp] theorem Regs.multComplete_pubkeyPrefix : r.multComplete.pubkeyPrefix = (multKey r.k)[0] := rfl
@[simp] theorem Regs.multComplete_pubkeyX : r.multComplete.pubkeyX = packX (multKey r.k) := rfl

end RegsUpdates

end Sys2Proof.Machine
end

