-- ==== Sys2Proof/Laws/Ops.lean ====
section
/-! SUPPORT. What the shared operations, `exec` and `step` can do, said once: provers cite these and unfold neither. -/

namespace Sys2Proof.Machine

/-- The registers after an instruction. -/
def effect (i : Instr) (r : Regs) : Regs :=
  match i with
  | .nop => r.cmdWrite 0x00000000#32
  | .validate => r.cmdWrite 0x00000001#32
  | .mult => r.cmdWrite 0x00000002#32
  | .zeroize => r.cmdWrite 0x00000003#32
  | .wrCmd w => r.cmdWrite w
  | .wrCtrl w => if w[1] then Regs.reset else { r with irqEn := w[0] }
  | .wrStatus w => { r with done := r.done && !w[1], drop := r.drop && !w[5] }
  | .wrScalar i w => if r.busy then r.dropWrite else { r with scalar := r.scalar.set i w }
  | .rdId | .rdCtrl | .rdStatus | .rdCmd | .rdPubkeyPrefix => r
  | .rdScalar _ | .rdPubkeyX _ | .wrId _ | .wrPubkeyPrefix _ | .wrPubkeyX _ _ => r

/-- The response of an instruction. -/
def answer (i : Instr) (r : Regs) : Response :=
  match i with
  | .rdId => ⟨.ok, idValue⟩
  | .rdCtrl => ⟨.ok, ctrlWord r⟩
  | .rdStatus => ⟨.ok, statusWord r⟩
  | .rdPubkeyPrefix => ⟨.ok, r.pubkeyPrefix.setWidth 32⟩
  | .rdPubkeyX i => ⟨.ok, r.pubkeyX[i]⟩
  | .wrId _ | .wrPubkeyPrefix _ | .wrPubkeyX _ _ => ⟨.err, 0#32⟩
  | .nop | .validate | .mult | .zeroize | .wrCmd _ => ⟨.ok, 0#32⟩
  | .wrCtrl _ | .wrStatus _ | .wrScalar _ _ | .rdCmd | .rdScalar _ => ⟨.ok, 0#32⟩

@[simp] theorem State.commit_self (s : State) : s.commit s.regs = s := by
  cases s; simp [State.commit]

/-- Every instruction completes: its registers, its response, and nothing else. -/
theorem exec_eq (i : Instr) (s : State) :
    exec i s = .next ((s.commit (effect i s.regs)).respond (answer i s.regs).resp (answer i s.regs).rdata) := by
  cases i with
  | wrCtrl w => by_cases h : w[1] = true <;> simp [exec, execWrCtrl, effect, answer, writeOk, h]
  | wrScalar i w => by_cases h : s.regs.busy = true <;> simp [exec, execWrScalar, effect, answer, writeOk, h]
  | _ => simp [exec, execNop, execValidate, execMult, execZeroize, execRdId, execWrId, execRdCtrl, execRdStatus,
      execWrStatus, execRdCmd, execWrCmd, execRdPubkeyPrefix, execWrPubkeyPrefix, execRdScalar, execRdPubkeyX,
      execWrPubkeyX, readOk, writeOk, busError, effect, answer]

/-- What an instruction leaves, field by field. -/
theorem exec_next {i : Instr} {s t : State} (h : exec i s = .next t) :
    t.regs = effect i s.regs ∧ t.response = some (answer i s.regs) ∧ t.agenda = s.agenda ∧
      t.resetSeen = s.resetSeen ∧
      t.faultMark = (s.faultMark || (!s.regs.fault && (effect i s.regs).fault)) := by
  rw [exec_eq] at h
  cases h
  simp

/-! The step, by the head of the agenda. -/

theorem step_nil {s : State} (h : s.agenda = []) : step s = idleTurn s := by
  simp [step, fetch, h]

theorem step_reset {s : State} {rest : List Event} (h : s.agenda = .reset :: rest) :
    step s = hardwareReset (s.withAgenda rest) := by
  simp [step, fetch, h]

theorem step_engine {s : State} {rest : List Event} (hr : s.resetSeen = true) (h : s.agenda = .engine :: rest) :
    step s = engineTurn (s.withAgenda rest) := by
  simp [step, fetch, admitted, h, hr]

theorem step_host_ok {s : State} {op : HostOp} {rest : List Event} {i : Instr} (hr : s.resetSeen = true)
    (h : s.agenda = .host op :: rest) (hd : decode op = .ok i) : step s = exec i (s.withAgenda rest) := by
  simp [step, fetch, fetchHost, admitted, h, hr, hd]

theorem step_host_error {s : State} {op : HostOp} {rest : List Event} {e : DecodeError} (hr : s.resetSeen = true)
    (h : s.agenda = .host op :: rest) (hd : decode op = .error e) : step s = busError (s.withAgenda rest) := by
  simp [step, fetch, fetchHost, admitted, h, hr, hd]

theorem step_before_reset {s : State} {e : Event} {rest : List Event} (hr : s.resetSeen = false)
    (h : s.agenda = e :: rest) (he : e ≠ .reset) : step s = .refused .beforeFirstReset := by
  cases e <;> simp_all [step, fetch, admitted]

/-- The Engine's turn: the completion while BUSY, else nothing. -/
theorem engineTurn_eq (s : State) :
    engineTurn s = .next (if s.regs.busy then s.commit s.regs.multComplete else s) := by
  by_cases h : s.regs.busy <;> simp [engineTurn, h]

/-- Everything a step can do to the registers: nothing (a bus error, an Engine turn while nothing runs, an idle
machine), a reset, the completion of a running MULT, or the effect of the instruction it carries. -/
theorem step_cases {s t : State} (h : step s = .next t) :
    (t.regs = s.regs ∧ t.faultMark = s.faultMark ∧ t.resetSeen = s.resetSeen ∧ s.nextInstr = none ∧
      s.nextIsReset = false ∧ (s.nextIsEngine = true → s.resetSeen = true → s.regs.busy = false)) ∨
    (s.nextIsReset = true ∧ t.regs = Regs.reset ∧ t.faultMark = s.faultMark ∧ t.resetSeen = true ∧
      s.nextInstr = none ∧ s.nextIsEngine = false) ∨
    (s.nextIsEngine = true ∧ s.resetSeen = true ∧ s.regs.busy = true ∧ t.regs = s.regs.multComplete ∧
      t.faultMark = s.faultMark ∧ t.resetSeen = true ∧ s.nextInstr = none ∧ s.nextIsReset = false) ∨
    (∃ i, s.resetSeen = true ∧ s.nextInstr = some i ∧ t.regs = effect i s.regs ∧
      t.response = some (answer i s.regs) ∧ t.resetSeen = true ∧ s.nextIsEngine = false ∧
      t.faultMark = (s.faultMark || (!s.regs.fault && (effect i s.regs).fault))) := by
  obtain ⟨regs, seen, mark, resp, agenda⟩ := s
  cases agenda with
  | nil =>
    rw [step_nil rfl, idleTurn] at h
    cases seen
    · cases h
      exact .inl ⟨rfl, rfl, rfl, rfl, rfl, by simp⟩
    · simp only [engineTurn_eq, if_true] at h
      cases h
      cases hb : regs.busy
      · left; simp [State.nextInstr, State.nextIsReset]
      · right; right; left; simp [State.nextIsEngine, State.nextInstr, State.nextIsReset]
  | cons e rest =>
    cases e with
    | reset =>
      rw [step_reset rfl] at h
      cases h
      right; left; simp [State.nextIsReset, State.nextInstr, State.nextIsEngine, Regs.reset]
    | engine =>
      cases seen
      · rw [step_before_reset rfl rfl (by simp)] at h; cases h
      · rw [step_engine rfl rfl, engineTurn_eq] at h
        cases h
        cases hb : regs.busy
        · left; simp [hb, State.nextInstr, State.nextIsReset]
        · right; right; left; simp [hb, State.nextIsEngine, State.nextInstr, State.nextIsReset]
    | host op =>
      cases seen
      · rw [step_before_reset rfl rfl (by simp)] at h; cases h
      · cases hd : decode op with
        | error e =>
          rw [step_host_error rfl rfl hd, busError] at h
          cases h
          left; simp [State.nextInstr, State.nextIsReset, State.nextIsEngine, hd]
        | ok i =>
          rw [step_host_ok rfl rfl hd] at h
          obtain ⟨h1, h2, -, h4, h5⟩ := exec_next h
          exact .inr (.inr (.inr ⟨i, rfl, by simp [State.nextInstr, hd], h1, h2, h4, rfl, h5⟩))

end Sys2Proof.Machine
end

