-- ==== Sys2Proof/Laws/Commands.lean ====
section
/-! SUPPORT. What a scalar check, a CMD write and an instruction do to the registers, case by case, said once. -/

namespace Sys2Proof.Machine

/-- The classification of a valid scalar (R132). -/
theorem classify_valid {k : Nat} (h1 : 1 ≤ k) (h2 : k < groupOrder) : classify k = (true, 0#2) := by
  rw [classify, if_neg (Nat.ne_of_gt h1), if_neg (Nat.not_le.mpr h2), reasonInRange]

/-- The classification of an invalid scalar (R132). -/
theorem classify_invalid {k : Nat} (h : ¬ (1 ≤ k ∧ k < groupOrder)) :
    classify k = (false, if k = 0 then 1#2 else 2#2) := by
  rw [classify]
  by_cases h0 : k = 0
  · rw [if_pos h0, if_pos h0, reasonZero]
  · rw [if_neg h0, if_neg h0, if_pos, reasonGeOrder]
    exact Nat.not_lt.mp fun h2 => h ⟨Nat.pos_of_ne_zero h0, h2⟩

/-- The classification as two closed forms, with the order never unfolded. -/
theorem classify_eq (k : Nat) :
    classify k = (decide (1 ≤ k ∧ k < groupOrder),
      if k = 0 then 1#2 else if groupOrder ≤ k then 2#2 else 0#2) := by
  by_cases h : 1 ≤ k ∧ k < groupOrder
  · rw [classify_valid h.1 h.2, decide_eq_true h, if_neg (Nat.ne_of_gt h.1), if_neg (Nat.not_le.mpr h.2)]
  · rw [classify_invalid h, decide_eq_false h]
    by_cases h0 : k = 0
    · rw [if_pos h0, if_pos h0]
    · rw [if_neg h0, if_neg h0, if_pos]
      exact Nat.not_lt.mp fun h2 => h ⟨Nat.pos_of_ne_zero h0, h2⟩

/-- VALID goes with REASON 0, and REASON 3 is never produced (R29). -/
theorem classify_reason (k : Nat) :
    (classify k).2 ≠ 3#2 ∧ ((classify k).1 = true ↔ (classify k).2 = 0#2) ∧
      ((classify k).1 = false → (classify k).2 = 1#2 ∨ (classify k).2 = 2#2) := by
  by_cases h : 1 ≤ k ∧ k < groupOrder
  · rw [classify_valid h.1 h.2]; decide
  · rw [classify_invalid h]; split <;> decide

theorem groupOrder_lt : groupOrder < 2 ^ 256 := by decide

/-- A valid scalar fits K (R35). -/
theorem toNat_ofNat_of_lt_groupOrder {k : Nat} (h : k < groupOrder) : (BitVec.ofNat 256 k).toNat = k := by
  rw [BitVec.toNat_ofNat]; exact Nat.mod_eq_of_lt (h.trans groupOrder_lt)

/-- An instruction that carries a command word is that CMD write. -/
theorem effect_cmdWord {i : Instr} {w : Word} (h : i.cmdWord = some w) (r : Regs) : effect i r = r.cmdWrite w := by
  cases i <;> simp [Instr.cmdWord] at h <;> subst h <;> rfl

/-- The next command word, from the next instruction. -/
theorem nextCmd_eq {s : State} {i : Instr} (h : s.nextInstr = some i) : s.nextCmd = i.cmdWord := by
  simp [State.nextCmd, h]

/-- Everything a CMD write does to the registers (R110, R133, R162, R190 to R193, R213, R214, R216): dropped; in the fault
state, ZEROIZE or any other word; accepted, NOP, VALIDATE, MULT with a valid scalar, MULT with an invalid one, ZEROIZE, or
an illegal word. -/
theorem cmdWrite_cases (w : Word) (r : Regs) :
    (r.busy = true ∧ r.cmdWrite w = r.dropWrite) ∨
    (r.busy = false ∧ r.fault = true ∧ w = 3#32 ∧ r.cmdWrite w = { r.wipe with done := true }) ∨
    (r.busy = false ∧ r.fault = true ∧ w ≠ 3#32 ∧ r.cmdWrite w = { r with done := true }) ∨
    (r.busy = false ∧ r.fault = false ∧ w = 0#32 ∧ r.cmdWrite w = { r with errcode := 0#4, done := true }) ∨
    (r.busy = false ∧ r.fault = false ∧ w = 1#32 ∧ r.cmdWrite w = { r with
      valid := (classify (scalarValue r.scalar)).1, reason := (classify (scalarValue r.scalar)).2
      errcode := 0#4, done := true }) ∨
    (r.busy = false ∧ r.fault = false ∧ w = 2#32 ∧
      1 ≤ scalarValue r.scalar ∧ scalarValue r.scalar < groupOrder ∧ r.cmdWrite w = { r.clearResult with
        valid := true, reason := 0#2, k := BitVec.ofNat 256 (scalarValue r.scalar)
        errcode := 0#4, busy := true, done := false }) ∨
    (r.busy = false ∧ r.fault = false ∧ w = 2#32 ∧
      ¬ (1 ≤ scalarValue r.scalar ∧ scalarValue r.scalar < groupOrder) ∧ r.cmdWrite w = { r.clearResult with
        valid := false, reason := if scalarValue r.scalar = 0 then 1#2 else 2#2
        fault := true, errcode := 1#4, done := true }) ∨
    (r.busy = false ∧ r.fault = false ∧ w = 3#32 ∧ r.cmdWrite w = { r.wipe with
      valid := false, reason := 0#2, errcode := 0#4, done := true }) ∨
    (r.busy = false ∧ r.fault = false ∧ w ≠ 0#32 ∧ w ≠ 1#32 ∧ w ≠ 2#32 ∧ w ≠ 3#32 ∧
      r.cmdWrite w = { r with errcode := 2#4, done := true }) := by
  cases hb : r.busy
  case true => exact .inl ⟨rfl, by simp [Regs.cmdWrite, hb]⟩
  cases hf : r.fault
  case true =>
    by_cases hw : w = 3#32
    · exact .inr (.inl ⟨rfl, rfl, hw, by simp [Regs.cmdWrite, hb, hf, Regs.faultedCmd, hw]⟩)
    · exact .inr (.inr (.inl ⟨rfl, rfl, hw, by simp [Regs.cmdWrite, hb, hf, Regs.faultedCmd, hw]⟩))
  by_cases h0 : w = 0#32
  · refine .inr (.inr (.inr (.inl ⟨rfl, rfl, h0, ?_⟩)))
    simp [Regs.cmdWrite, hb, hf, Regs.acceptCmd, h0, Regs.nop, errNone]
  by_cases h1 : w = 1#32
  · refine .inr (.inr (.inr (.inr (.inl ⟨rfl, rfl, h1, ?_⟩))))
    simp [Regs.cmdWrite, hb, hf, Regs.acceptCmd, h1, Regs.validate, errNone]
  by_cases h2 : w = 2#32
  · by_cases hv : 1 ≤ scalarValue r.scalar ∧ scalarValue r.scalar < groupOrder
    · refine .inr (.inr (.inr (.inr (.inr (.inl ⟨rfl, rfl, h2, hv.1, hv.2, ?_⟩)))))
      simp [Regs.cmdWrite, hb, hf, Regs.acceptCmd, h2, Regs.multAccept, classify_valid hv.1 hv.2, errNone,
        Regs.clearResult]
    · refine .inr (.inr (.inr (.inr (.inr (.inr (.inl ⟨rfl, rfl, h2, hv, ?_⟩))))))
      simp [Regs.cmdWrite, hb, hf, Regs.acceptCmd, h2, Regs.multAccept, classify_invalid hv,
        Regs.raiseInvalidScalar, errInvalidScalar, Regs.clearResult]
  by_cases h3 : w = 3#32
  · refine .inr (.inr (.inr (.inr (.inr (.inr (.inr (.inl ⟨rfl, rfl, h3, ?_⟩)))))))
    simp [Regs.cmdWrite, hb, hf, Regs.acceptCmd, h3, Regs.zeroize, errNone, reasonInRange, Regs.wipe, Regs.clearResult]
  refine .inr (.inr (.inr (.inr (.inr (.inr (.inr (.inr ⟨rfl, rfl, h0, h1, h2, h3, ?_⟩)))))))
  simp [Regs.cmdWrite, hb, hf, Regs.acceptCmd, h0, h1, h2, h3, Regs.illegalCmd, errIllegalCmd]

/-- Everything an instruction does to the registers: nothing, a CMD write, a soft reset, IRQ_EN, the STATUS clears, a
dropped or an accepted SCALAR write. -/
theorem effect_cases (i : Instr) (r : Regs) :
    (i.cmdWord = none ∧ (∀ n w, i ≠ .wrScalar n w) ∧ (∀ w, i ≠ .wrStatus w) ∧ (∀ w, i ≠ .wrCtrl w) ∧
      effect i r = r) ∨
    (∃ w, i.cmdWord = some w ∧ effect i r = r.cmdWrite w) ∨
    (∃ w, i = .wrCtrl w ∧ w[1] = true ∧ effect i r = Regs.reset) ∨
    (∃ w, i = .wrCtrl w ∧ w[1] = false ∧ effect i r = { r with irqEn := w[0] }) ∨
    (∃ w, i = .wrStatus w ∧ effect i r = { r with done := r.done && !w[1], drop := r.drop && !w[5] }) ∨
    (∃ n w, i = .wrScalar n w ∧ r.busy = true ∧ effect i r = r.dropWrite) ∨
    (∃ n w, i = .wrScalar n w ∧ r.busy = false ∧ effect i r = { r with scalar := r.scalar.set n w }) := by
  cases i with
  | nop => exact .inr (.inl ⟨_, rfl, rfl⟩)
  | validate => exact .inr (.inl ⟨_, rfl, rfl⟩)
  | mult => exact .inr (.inl ⟨_, rfl, rfl⟩)
  | zeroize => exact .inr (.inl ⟨_, rfl, rfl⟩)
  | wrCmd w => exact .inr (.inl ⟨_, rfl, rfl⟩)
  | wrCtrl w =>
    cases h : w[1]
    · exact .inr (.inr (.inr (.inl ⟨w, rfl, h, by simp [effect, h]⟩)))
    · exact .inr (.inr (.inl ⟨w, rfl, h, by simp [effect, h]⟩))
  | wrStatus w => exact .inr (.inr (.inr (.inr (.inl ⟨w, rfl, rfl⟩))))
  | wrScalar n w =>
    cases h : r.busy
    · exact .inr (.inr (.inr (.inr (.inr (.inr ⟨n, w, rfl, rfl, by simp [effect, h]⟩)))))
    · exact .inr (.inr (.inr (.inr (.inr (.inl ⟨n, w, rfl, rfl, by simp [effect, h]⟩)))))
  | _ => exact .inl ⟨rfl, by simp, by simp, by simp, rfl⟩

/-- An instruction is a reset exactly when it sets CTRL.SRST (R240). -/
theorem nextIsReset_of_instr {s : State} {i : Instr} (h : s.nextInstr = some i) :
    s.nextIsReset = true ↔ ∃ w, i = .wrCtrl w ∧ w[1] = true := by
  obtain ⟨_, _, _, _, a⟩ := s
  cases a with
  | nil => simp [State.nextInstr] at h
  | cons e r =>
    cases e with
    | host op =>
      simp only [State.nextIsReset, h]
      cases i <;> simp
    | _ => simp [State.nextInstr] at h

/-- A reset carries no command and no STATUS or SCALAR write. -/
theorem nextInstr_of_reset {s : State} (h : s.nextIsReset = true) :
    s.nextCmd = none ∧ (∀ w, s.nextInstr ≠ some (.wrStatus w)) ∧ ∀ n w, s.nextInstr ≠ some (.wrScalar n w) := by
  obtain ⟨_, _, _, _, a⟩ := s
  cases a with
  | nil => simp [State.nextInstr, State.nextCmd]
  | cons e r =>
    cases e with
    | host op =>
      simp [State.nextIsReset] at h
      split at h
      · rename_i w h2; simp [State.nextCmd, h2, Instr.cmdWord]
      · simp at h
    | _ => simp [State.nextInstr, State.nextCmd]


end Sys2Proof.Machine
end

