-- ==== Sys2Proof/Laws/Primes.lean ====
section
/-! SUPPORT. The field prime and the group order are prime, by Lucas certificates that the kernel checks, and `powP`
computes a power. R131 and R150 state both primalities. -/

namespace Sys2Proof.Machine

/-- `b^e mod m` by squaring, over the lowest `bits` bits of the exponent. -/
def powMod (m : Nat) : Nat → Nat → Nat → Nat
  | 0, _, _ => 1
  | bits + 1, b, e =>
    let h := powMod m bits (b * b % m) (e / 2)
    if e % 2 = 1 then b * h % m else h

/-- Every power is the right residue when the exponent fits. -/
theorem powMod_mod (m bits b e : Nat) (h : e < 2 ^ bits) : powMod m bits b e % m = b ^ e % m := by
  induction bits generalizing b e with
  | zero => simp at h; subst h; simp [powMod]
  | succ n ih =>
    have hi := ih (b * b % m) (e / 2) (by rw [pow_succ] at h; omega)
    rw [← Nat.pow_mod, show (b * b) ^ (e / 2) = b ^ (2 * (e / 2)) by rw [pow_mul, pow_two]] at hi
    rw [powMod]
    rcases Nat.mod_two_eq_zero_or_one e with he | he
    · rw [if_neg (by omega), hi]; congr 2; omega
    · rw [if_pos he, Nat.mod_mod, Nat.mul_mod, hi, ← Nat.mul_mod, ← pow_succ']; congr 2; omega

theorem powP_eq_powMod (bits b e : Nat) : powP bits b e = powMod fieldPrime bits b e := by
  induction bits generalizing b e with
  | zero => rfl
  | succ n ih => simp only [powP, powMod, ih, mulP]

/-- A Lucas certificate: a number of order `p - 1`, and the prime factors of `p - 1`. -/
theorem prime_of_certificate (p a : Nat) (factors : List Nat) (hp : 1 < p ∧ p < 2 ^ 256)
    (hprod : factors.prod = p - 1) (hprime : ∀ q ∈ factors, q.Prime)
    (h : powMod p 256 a (p - 1) = 1)
    (hq : ∀ q ∈ factors, powMod p 256 a ((p - 1) / q) % p ≠ 1) : p.Prime := by
  have cast : ∀ e, e < 2 ^ 256 → ((a : ZMod p) ^ e = 1 ↔ powMod p 256 a e % p = 1) := by
    intro e he
    rw [powMod_mod p 256 a e he]
    have h1 : 1 % p = 1 := Nat.mod_eq_of_lt hp.1
    have := ZMod.natCast_eq_natCast_iff' (a ^ e) 1 p
    rw [h1] at this
    rw [← this]; simp
  refine lucas_primality p a ((cast _ (by omega)).2 (by rw [h, Nat.mod_eq_of_lt hp.1])) fun q hqp hdvd => ?_
  rw [Ne, cast _ (lt_of_le_of_lt (Nat.div_le_self _ _) (by omega))]
  refine hq q ?_
  rw [← hprod] at hdvd
  obtain ⟨f, hf, hfd⟩ := (Prime.dvd_prod_iff hqp.prime).1 hdvd
  rwa [(Nat.prime_dvd_prime_iff_eq hqp (hprime f hf)).1 hfd]

theorem prime_13331831 : Nat.Prime 13331831 := by
  refine prime_of_certificate _ 13 [2, 5, 971, 1373] (by decide) (by decide) ?_ (by decide +kernel) (by decide +kernel)
  simp only [List.forall_mem_cons, List.not_mem_nil, false_implies, implies_true, and_true]
  exact ⟨by norm_num, by norm_num, by norm_num, by norm_num⟩

theorem prime_18digits_173378 : Nat.Prime 173378833005251801 := by
  refine prime_of_certificate _ 6 [2, 2, 2, 5, 5, 2621, 24809, 13331831] (by decide) (by decide) ?_ (by decide +kernel) (by decide +kernel)
  simp only [List.forall_mem_cons, List.not_mem_nil, false_implies, implies_true, and_true]
  exact ⟨by norm_num, by norm_num, by norm_num, by norm_num, by norm_num, by norm_num, by norm_num, prime_13331831⟩

theorem prime_23digits_221494 : Nat.Prime 22149492674086928081353 := by
  refine prime_of_certificate _ 5 [2, 2, 2, 3, 5323, 173378833005251801] (by decide) (by decide) ?_ (by decide +kernel) (by decide +kernel)
  simp only [List.forall_mem_cons, List.not_mem_nil, false_implies, implies_true, and_true]
  exact ⟨by norm_num, by norm_num, by norm_num, by norm_num, by norm_num, prime_18digits_173378⟩

theorem prime_24digits_132896 : Nat.Prime 132896956044521568488119 := by
  refine prime_of_certificate _ 6 [2, 3, 22149492674086928081353] (by decide) (by decide) ?_ (by decide +kernel) (by decide +kernel)
  simp only [List.forall_mem_cons, List.not_mem_nil, false_implies, implies_true, and_true]
  exact ⟨by norm_num, by norm_num, prime_23digits_221494⟩

theorem prime_1206781 : Nat.Prime 1206781 := by
  refine prime_of_certificate _ 10 [2, 2, 3, 5, 20113] (by decide) (by decide) ?_ (by decide +kernel) (by decide +kernel)
  simp only [List.forall_mem_cons, List.not_mem_nil, false_implies, implies_true, and_true]
  exact ⟨by norm_num, by norm_num, by norm_num, by norm_num, by norm_num⟩

theorem prime_7240687 : Nat.Prime 7240687 := by
  refine prime_of_certificate _ 3 [2, 3, 1206781] (by decide) (by decide) ?_ (by decide +kernel) (by decide +kernel)
  simp only [List.forall_mem_cons, List.not_mem_nil, false_implies, implies_true, and_true]
  exact ⟨by norm_num, by norm_num, prime_1206781⟩

theorem prime_107590001 : Nat.Prime 107590001 := by
  refine prime_of_certificate _ 3 [2, 2, 2, 2, 5, 5, 5, 5, 7, 29, 53] (by decide) (by decide) ?_ (by decide +kernel) (by decide +kernel)
  simp only [List.forall_mem_cons, List.not_mem_nil, false_implies, implies_true, and_true]
  exact ⟨by norm_num, by norm_num, by norm_num, by norm_num, by norm_num, by norm_num, by norm_num, by norm_num, by norm_num, by norm_num, by norm_num⟩

theorem prime_39digits_255515 : Nat.Prime 255515944373312847190720520512484175977 := by
  refine prime_of_certificate _ 3 [2, 2, 2, 7, 7, 11, 1627, 2657, 4423, 41201, 96557, 7240687, 107590001] (by decide) (by decide) ?_ (by decide +kernel) (by decide +kernel)
  simp only [List.forall_mem_cons, List.not_mem_nil, false_implies, implies_true, and_true]
  exact ⟨by norm_num, by norm_num, by norm_num, by norm_num, by norm_num, by norm_num, by norm_num, by norm_num, by norm_num, by norm_num, by norm_num, prime_7240687, prime_107590001⟩

theorem prime_72digits_205115 : Nat.Prime 205115282021455665897114700593932402728804164701536103180137503955397371 := by
  refine prime_of_certificate _ 10 [2, 3, 5, 29, 29, 31, 7723, 132896956044521568488119, 255515944373312847190720520512484175977] (by decide) (by decide) ?_ (by decide +kernel) (by decide +kernel)
  simp only [List.forall_mem_cons, List.not_mem_nil, false_implies, implies_true, and_true]
  exact ⟨by norm_num, by norm_num, by norm_num, by norm_num, by norm_num, by norm_num, by norm_num, prime_24digits_132896, prime_39digits_255515⟩

theorem fieldPrime_prime : Nat.Prime fieldPrime := by
  refine prime_of_certificate _ 3 [2, 3, 7, 13441, 205115282021455665897114700593932402728804164701536103180137503955397371] (by decide) (by decide) ?_ (by decide +kernel) (by decide +kernel)
  simp only [List.forall_mem_cons, List.not_mem_nil, false_implies, implies_true, and_true]
  exact ⟨by norm_num, by norm_num, by norm_num, by norm_num, prime_72digits_205115⟩

theorem prime_4681609 : Nat.Prime 4681609 := by
  refine prime_of_certificate _ 23 [2, 2, 2, 3, 97, 2011] (by decide) (by decide) ?_ (by decide +kernel) (by decide +kernel)
  simp only [List.forall_mem_cons, List.not_mem_nil, false_implies, implies_true, and_true]
  exact ⟨by norm_num, by norm_num, by norm_num, by norm_num, by norm_num, by norm_num⟩

theorem prime_18digits_107361 : Nat.Prime 107361793816595537 := by
  refine prime_of_certificate _ 3 [2, 2, 2, 2, 16699, 85831, 4681609] (by decide) (by decide) ?_ (by decide +kernel) (by decide +kernel)
  simp only [List.forall_mem_cons, List.not_mem_nil, false_implies, implies_true, and_true]
  exact ⟨by norm_num, by norm_num, by norm_num, by norm_num, by norm_num, by norm_num, prime_4681609⟩

theorem prime_44706919 : Nat.Prime 44706919 := by
  refine prime_of_certificate _ 6 [2, 3, 797, 9349] (by decide) (by decide) ?_ (by decide +kernel) (by decide +kernel)
  simp only [List.forall_mem_cons, List.not_mem_nil, false_implies, implies_true, and_true]
  exact ⟨by norm_num, by norm_num, by norm_num, by norm_num⟩

theorem prime_21digits_174723 : Nat.Prime 174723607534414371449 := by
  refine prime_of_certificate _ 3 [2, 2, 2, 17, 59, 4051, 120233, 44706919] (by decide) (by decide) ?_ (by decide +kernel) (by decide +kernel)
  simp only [List.forall_mem_cons, List.not_mem_nil, false_implies, implies_true, and_true]
  exact ⟨by norm_num, by norm_num, by norm_num, by norm_num, by norm_num, by norm_num, by norm_num, prime_44706919⟩

theorem prime_545358713 : Nat.Prime 545358713 := by
  refine prime_of_certificate _ 5 [2, 2, 2, 41, 59, 28181] (by decide) (by decide) ?_ (by decide +kernel) (by decide +kernel)
  simp only [List.forall_mem_cons, List.not_mem_nil, false_implies, implies_true, and_true]
  exact ⟨by norm_num, by norm_num, by norm_num, by norm_num, by norm_num, by norm_num⟩

theorem prime_1627771 : Nat.Prime 1627771 := by
  refine prime_of_certificate _ 3 [2, 3, 5, 29, 1871] (by decide) (by decide) ?_ (by decide +kernel) (by decide +kernel)
  simp only [List.forall_mem_cons, List.not_mem_nil, false_implies, implies_true, and_true]
  exact ⟨by norm_num, by norm_num, by norm_num, by norm_num, by norm_num⟩

theorem prime_297159362677 : Nat.Prime 297159362677 := by
  refine prime_of_certificate _ 2 [2, 2, 3, 3, 11, 461, 1627771] (by decide) (by decide) ?_ (by decide +kernel) (by decide +kernel)
  simp only [List.forall_mem_cons, List.not_mem_nil, false_implies, implies_true, and_true]
  exact ⟨by norm_num, by norm_num, by norm_num, by norm_num, by norm_num, by norm_num, prime_1627771⟩

theorem prime_29digits_290476 : Nat.Prime 29047611873442575647497758179 := by
  refine prime_of_certificate _ 2 [2, 293, 305873, 545358713, 297159362677] (by decide) (by decide) ?_ (by decide +kernel) (by decide +kernel)
  simp only [List.forall_mem_cons, List.not_mem_nil, false_implies, implies_true, and_true]
  exact ⟨by norm_num, by norm_num, by norm_num, prime_545358713, prime_297159362677⟩

theorem prime_33digits_341948 : Nat.Prime 341948486974166000522343609283189 := by
  refine prime_of_certificate _ 2 [2, 2, 3, 3, 3, 109, 29047611873442575647497758179] (by decide) (by decide) ?_ (by decide +kernel) (by decide +kernel)
  simp only [List.forall_mem_cons, List.not_mem_nil, false_implies, implies_true, and_true]
  exact ⟨by norm_num, by norm_num, by norm_num, by norm_num, by norm_num, by norm_num, prime_29digits_290476⟩

theorem groupOrder_prime : Nat.Prime groupOrder := by
  refine prime_of_certificate _ 7 [2, 2, 2, 2, 2, 2, 3, 149, 631, 107361793816595537, 174723607534414371449, 341948486974166000522343609283189] (by decide) (by decide) ?_ (by decide +kernel) (by decide +kernel)
  simp only [List.forall_mem_cons, List.not_mem_nil, false_implies, implies_true, and_true]
  exact ⟨by norm_num, by norm_num, by norm_num, by norm_num, by norm_num, by norm_num, by norm_num, by norm_num, by norm_num, prime_18digits_107361, prime_21digits_174723, prime_33digits_341948⟩

end Sys2Proof.Machine
end

