-- ==== Sys2Proof/Laws/Curve.lean ====
section
/-! SUPPORT. The bridge from the model's curve to Mathlib's elliptic curves: on points of `E(F_p)` the model's addition
is the group law, so `E(F_p)` under it is an abelian group and every multiplication is a multiple in that group. -/

namespace Sys2Proof.Machine

open WeierstrassCurve.Affine

/-- The field `F_p` (R150). -/
abbrev Fp := ZMod fieldPrime

theorem fact_fieldPrime : Fact (Nat.Prime fieldPrime) := ⟨fieldPrime_prime⟩

@[simp] theorem cast_fieldPrime : ((fieldPrime : Nat) : Fp) = 0 := ZMod.natCast_self _

@[simp] theorem cast_mod (a : Nat) : ((a % fieldPrime : Nat) : Fp) = a := ZMod.natCast_mod a _

@[simp] theorem cast_addP (a b : Nat) : ((addP a b : Nat) : Fp) = a + b := by simp [addP]

@[simp] theorem cast_mulP (a b : Nat) : ((mulP a b : Nat) : Fp) = a * b := by simp [mulP]

@[simp] theorem cast_subP (a b : Nat) : ((subP a b : Nat) : Fp) = a - b := by
  have h : b % fieldPrime ≤ fieldPrime := (Nat.mod_lt _ (by decide)).le
  rw [subP, cast_mod, Nat.cast_add, Nat.cast_sub h, cast_mod]
  simp [sub_eq_add_neg]

theorem addP_lt (a b : Nat) : addP a b < fieldPrime := Nat.mod_lt _ (by decide)
theorem subP_lt (a b : Nat) : subP a b < fieldPrime := Nat.mod_lt _ (by decide)
theorem mulP_lt (a b : Nat) : mulP a b < fieldPrime := Nat.mod_lt _ (by decide)

/-- Two canonical representatives are equal when they are equal in the field. -/
theorem cast_inj {a b : Nat} (ha : a < fieldPrime) (hb : b < fieldPrime) : ((a : Fp) = b) ↔ a = b := by
  rw [ZMod.natCast_eq_natCast_iff', Nat.mod_eq_of_lt ha, Nat.mod_eq_of_lt hb]

theorem cast_eq_zero (a : Nat) : ((a : Fp) = 0) ↔ a % fieldPrime = 0 := by
  rw [ZMod.natCast_eq_zero_iff, Nat.dvd_iff_mod_eq_zero]

section
variable [Fact (Nat.Prime fieldPrime)]

/-- `inv_p` is the inverse of the field, and 0 at 0 (R151). -/
@[simp] theorem cast_invP (a : Nat) : ((invP a : Nat) : Fp) = (a : Fp)⁻¹ := by
  have h := powMod_mod fieldPrime 256 a (fieldPrime - 2) (by decide)
  rw [invP, powP_eq_powMod, ← cast_mod, h, cast_mod, Nat.cast_pow]
  by_cases ha : (a : Fp) = 0
  · rw [ha, inv_zero, zero_pow (by decide)]
  · have := ZMod.pow_card_sub_one_eq_one ha
    refine eq_inv_of_mul_eq_one_left ?_
    rw [← pow_succ, ← this]
    congr 1

/-- The curve `y² = x³ + 7` over `F_p` (R152). -/
def curve : WeierstrassCurve Fp := { a₁ := 0, a₂ := 0, a₃ := 0, a₄ := 0, a₆ := 7 }

theorem seven_ne_zero : (7 : Fp) ≠ 0 := by
  have : ((7 : Nat) : Fp) ≠ 0 := by rw [Ne, cast_eq_zero]; decide
  exact_mod_cast this

theorem curve_disc : curve.Δ ≠ 0 := by
  have : curve.Δ = ((-21168 : Int) : Fp) := by
    simp [curve, WeierstrassCurve.Δ, WeierstrassCurve.b₂, WeierstrassCurve.b₄, WeierstrassCurve.b₆, WeierstrassCurve.b₈]
    norm_num
  rw [this, Ne, ZMod.intCast_zmod_eq_zero_iff_dvd]
  decide

/-- Membership in the curve is the equation in the field. -/
theorem equation_iff_onCurve (x y : Nat) :
    curve.toAffine.Equation (x : Fp) y ↔ y ^ 2 % fieldPrime = (x ^ 3 + 7) % fieldPrime := by
  rw [equation_iff]
  simp only [curve, zero_mul, add_zero]
  rw [← ZMod.natCast_eq_natCast_iff']
  push_cast
  rfl

/-- Any solution of the equation is a nonsingular point. -/
theorem nonsingular_of_eq {x y : Nat} (h : y ^ 2 % fieldPrime = (x ^ 3 + 7) % fieldPrime) :
    curve.toAffine.Nonsingular (x : Fp) y :=
  (equation_iff_nonsingular_of_Δ_ne_zero curve_disc).1 ((equation_iff_onCurve x y).2 h)

/-- A point of the model as a point of Mathlib's curve. -/
noncomputable def Point.toGroup : Point → curve.toAffine.Point
  | .infinity => .zero
  | .affine x y =>
    if h : y ^ 2 % fieldPrime = (x ^ 3 + 7) % fieldPrime then .some _ _ (nonsingular_of_eq h) else .zero

omit [Fact (Nat.Prime fieldPrime)] in
theorem onCurve_affine (x y : Nat) : (Point.affine x y).onCurve = true ↔
    x < fieldPrime ∧ y < fieldPrime ∧ y ^ 2 % fieldPrime = (x ^ 3 + 7) % fieldPrime := by
  simp only [Point.onCurve, Bool.and_eq_true, decide_eq_true_eq, beq_iff_eq, and_assoc]

theorem toGroup_infinity : Point.infinity.toGroup = 0 := rfl

theorem toGroup_affine {x y : Nat} (h : y ^ 2 % fieldPrime = (x ^ 3 + 7) % fieldPrime) :
    (Point.affine x y).toGroup = .some _ _ (nonsingular_of_eq h) := by
  rw [Point.toGroup, dif_pos h]

/-- Distinct points of the curve are distinct in the group. -/
theorem toGroup_inj {p q : Point} (hp : p.onCurve = true) (hq : q.onCurve = true) (h : p.toGroup = q.toGroup) :
    p = q := by
  cases p with
  | infinity =>
    cases q with
    | infinity => rfl
    | affine x y =>
      rw [toGroup_affine ((onCurve_affine x y).1 hq).2.2] at h
      exact absurd h.symm (by simp [Point.toGroup])
  | affine x y =>
    obtain ⟨hx, hy, he⟩ := (onCurve_affine x y).1 hp
    cases q with
    | infinity =>
      rw [toGroup_affine he] at h
      exact absurd h (by simp [Point.toGroup])
    | affine u v =>
      obtain ⟨hu, hv, hf⟩ := (onCurve_affine u v).1 hq
      rw [toGroup_affine he, toGroup_affine hf] at h
      injection h with h1 h2
      rw [(cast_inj hx hu).1 h1, (cast_inj hy hv).1 h2]

/-- The last three lines of R156 are the coordinates of the sum for the slope `l`. -/
theorem chordPoint_coords (l x1 y1 x2 : Nat) : ∃ x3 y3, chordPoint l x1 y1 x2 = .affine x3 y3 ∧
    x3 < fieldPrime ∧ y3 < fieldPrime ∧
    (x3 : Fp) = curve.toAffine.addX x1 x2 l ∧ (y3 : Fp) = curve.toAffine.addY x1 x2 y1 l := by
  refine ⟨_, _, rfl, subP_lt _ _, subP_lt _ _, ?_, ?_⟩
  · simp [addX, curve, pow_two]
  · simp [addX, addY, negAddY, negY, curve, pow_two]
    ring

/-- The two opposite cases of R156 are the vertical line. -/
theorem opposite_iff {x1 y1 x2 y2 : Nat} (hx1 : x1 < fieldPrime) (hx2 : x2 < fieldPrime) :
    (x1 = x2 ∧ (y1 + y2) % fieldPrime = 0) ↔ ((x1 : Fp) = x2 ∧ (y1 : Fp) = curve.toAffine.negY x2 y2) := by
  rw [cast_inj hx1 hx2, ← cast_eq_zero]
  simp [negY, curve, eq_neg_iff_add_eq_zero]

/-- Every other sum of affine points of the curve is the third point of the line of Mathlib's slope (R156, R157). -/
theorem add_eq_chordPoint {x1 y1 x2 y2 : Nat} (h1 : (Point.affine x1 y1).onCurve = true)
    (h2 : (Point.affine x2 y2).onCurve = true) (h : ¬ (x1 = x2 ∧ (y1 + y2) % fieldPrime = 0)) :
    ∃ l : Nat, (Point.affine x1 y1).add (.affine x2 y2) = chordPoint l x1 y1 x2 ∧
      (l : Fp) = curve.toAffine.slope (x1 : Fp) x2 y1 y2 := by
  obtain ⟨hx1, hy1, he1⟩ := (onCurve_affine x1 y1).1 h1
  obtain ⟨hx2, hy2, he2⟩ := (onCurve_affine x2 y2).1 h2
  rw [Point.add, if_neg h]
  by_cases hx : x1 = x2
  · subst hx
    have hn := mt (opposite_iff hx1 hx2).2 h
    have hY : (y1 : Fp) ≠ curve.toAffine.negY x1 y2 := fun e => hn ⟨rfl, e⟩
    have hy : y1 = y2 := (cast_inj hy1 hy2).1 <|
      Y_eq_of_Y_ne ((equation_iff_onCurve _ _).2 he1) ((equation_iff_onCurve _ _).2 he2) rfl hY
    rw [if_pos ⟨rfl, hy⟩]
    refine ⟨_, rfl, ?_⟩
    rw [slope_of_Y_ne rfl hY]
    simp only [cast_mulP, cast_invP, Nat.cast_mul, Nat.cast_pow, Nat.cast_ofNat, negY, curve, div_eq_mul_inv]
    congr 1
    · ring
    · congr 1; ring
  · rw [if_neg (fun e => hx e.1)]
    refine ⟨_, rfl, ?_⟩
    rw [slope_of_X_ne (mt (cast_inj hx1 hx2).1 hx)]
    simp only [cast_mulP, cast_subP, cast_invP]
    rw [← neg_sub (y1 : Fp), ← neg_sub (x1 : Fp), inv_neg, neg_mul_neg, div_eq_mul_inv]

end

end Sys2Proof.Machine
end

