-- ==== Sys2Proof/Laws/Decode.lean ====
section
/-! SUPPORT. What the decoder and the encoder do to a transaction of the encoder's form: provers cite these and unfold
neither. -/

namespace Sys2Proof

/-- The encoder's transaction has the selector it was made from. -/
theorem selector_transactionOf (sel : BitVec 9) (w : Word) : (transactionOf sel w).selector = sel := by
  simp only [transactionOf, Transaction.selector, selWrite]
  revert sel
  decide

/-- Such a transaction passes the width and strobe check, so its selector decides. -/
theorem decode_transactionOf (sel : BitVec 9) (w : Word) :
    decode (.bus (transactionOf sel w)) = decodeSelector sel w := by
  have h := selector_transactionOf sel w
  simp only [decode, decodeTransaction, h]
  simp [transactionOf]

/-- Write data has no part in well-formedness. -/
theorem wellFormed_transactionOf (sel : BitVec 9) (w v : Word) :
    (transactionOf sel w).wellFormed = (transactionOf sel v).wellFormed := rfl

/-- The array rows, at every index (R72). -/
theorem decodeSelector_array (i : Fin 8) (w : Word) :
    decodeSelector (arraySelector 0x020#9 i) w = .ok (.rdScalar i) ∧
    decodeSelector (arraySelector 0x120#9 i) w = .ok (.wrScalar i w) ∧
    decodeSelector (arraySelector 0x040#9 i) w = .ok (.rdPubkeyX i) ∧
    decodeSelector (arraySelector 0x140#9 i) w = .ok (.wrPubkeyX i w) := by
  fin_cases i <;> exact ⟨rfl, rfl, rfl, rfl⟩

/-- Write data moves no selector from one row to another. -/
theorem decodeSelector_mnemonic (sel : BitVec 9) (w v : Word) :
    (decodeSelector sel w).toOption.map Instr.mnemonic = (decodeSelector sel v).toOption.map Instr.mnemonic := by
  simp only [decodeSelector, decodeControl]
  split
  · rfl
  · split
    · split <;> (first | rfl | (split <;> rfl))
    · split <;> rfl
    · split <;> rfl
    · rfl

end Sys2Proof
end

