-- ==== Sys2Proof/Laws/PerInstr.lean ====
section
/-! SUPPORT. Statements made of every instruction as syntax, one lemma per constructor. -/

namespace Sys2Proof.Laws.EncodeSelector

/-- The encoding of an instruction is a command word, or a transaction whose selector some row of the opcode table
covers under the instruction's own mnemonic. -/
def Statement (i : Instr) : Prop :=
  match encode i with
  | .cmd w => i.mnemonic ∈ ["NOP", "VALIDATE", "MULT", "ZEROIZE"] ∧ w.toNat < 4
  | .bus t => (busTable.find? fun r => r.covers t.selector).map BusRow.mnemonic = some i.mnemonic

theorem nop : Statement .nop := by simp [Statement, encode, Instr.mnemonic]
theorem validate : Statement .validate := by simp [Statement, encode, Instr.mnemonic]
theorem mult : Statement .mult := by simp [Statement, encode, Instr.mnemonic]
theorem zeroize : Statement .zeroize := by simp [Statement, encode, Instr.mnemonic]
theorem rdId : Statement .rdId := by
  simp only [Statement, encode, selector_transactionOf]
  decide

theorem rdCtrl : Statement .rdCtrl := by
  simp only [Statement, encode, selector_transactionOf]
  decide

theorem rdStatus : Statement .rdStatus := by
  simp only [Statement, encode, selector_transactionOf]
  decide

theorem rdCmd : Statement .rdCmd := by
  simp only [Statement, encode, selector_transactionOf]
  decide

theorem rdPubkeyPrefix : Statement .rdPubkeyPrefix := by
  simp only [Statement, encode, selector_transactionOf]
  decide


theorem wrId (w : Word) : Statement (.wrId w) := by
  simp only [Statement, encode, selector_transactionOf, Instr.mnemonic]
  decide

theorem wrCtrl (w : Word) : Statement (.wrCtrl w) := by
  simp only [Statement, encode, selector_transactionOf, Instr.mnemonic]
  decide

theorem wrStatus (w : Word) : Statement (.wrStatus w) := by
  simp only [Statement, encode, selector_transactionOf, Instr.mnemonic]
  decide

theorem wrCmd (w : Word) : Statement (.wrCmd w) := by
  simp only [Statement, encode, selector_transactionOf, Instr.mnemonic]
  decide

theorem wrPubkeyPrefix (w : Word) : Statement (.wrPubkeyPrefix w) := by
  simp only [Statement, encode, selector_transactionOf, Instr.mnemonic]
  decide

theorem rdScalar (i : Fin 8) : Statement (.rdScalar i) := by
  simp only [Statement, encode, selector_transactionOf]
  revert i
  decide

theorem wrScalar (i : Fin 8) (w : Word) : Statement (.wrScalar i w) := by
  simp only [Statement, encode, selector_transactionOf]
  simp only [Instr.mnemonic]
  revert i
  decide

theorem rdPubkeyX (i : Fin 8) : Statement (.rdPubkeyX i) := by
  simp only [Statement, encode, selector_transactionOf]
  revert i
  decide

theorem wrPubkeyX (i : Fin 8) (w : Word) : Statement (.wrPubkeyX i w) := by
  simp only [Statement, encode, selector_transactionOf]
  simp only [Instr.mnemonic]
  revert i
  decide

end Sys2Proof.Laws.EncodeSelector
end

