-- ==== Sys2Proof/Laws/Run.lean ====
section
/-! SUPPORT. Runs of several steps, and the operations a master issues by register name. -/

namespace Sys2Proof.Machine

/-- `runSteps` is the run of the host's interface. -/
theorem core_run_eq (n : Nat) (s : State) : Host.Core.run Sys2Proof.core n s = runSteps n s := by
  induction n generalizing s with
  | zero => rfl
  | succ n ih =>
    simp only [Host.Core.run, runSteps]
    cases h : step s with
    | next t =>
      have h' : Sys2Proof.core.step s = .next t := h
      simp only [h']
      exact ih t
    | fault r => cases r
    | refused r =>
      have h' : Sys2Proof.core.step s = .refused r := h
      simp only [h']
      rfl

@[simp] theorem run_zero (s : State) : runSteps 0 s = .next s := rfl

/-- A run goes on from the state after its first step. -/
theorem run_succ {n : Nat} {s t : State} (h : step s = .next t) : runSteps (n + 1) s = runSteps n t := by
  simp only [runSteps, h]

/-- A step that takes an Engine turn. -/
theorem step_engine_turn {s : State} {rest : List Event} (hr : s.resetSeen = true) (h : s.agenda = .engine :: rest) :
    step s = .next (if s.regs.busy then (s.withAgenda rest).commit s.regs.multComplete else s.withAgenda rest) := by
  rw [step_engine hr h, engineTurn_eq]
  rfl

/-- A step that runs an instruction, with all it leaves. -/
theorem step_host_eq {s : State} {op : HostOp} {rest : List Event} {i : Instr} (hr : s.resetSeen = true)
    (h : s.agenda = .host op :: rest) (hd : decode op = .ok i) :
    step s = .next (((s.withAgenda rest).commit (effect i s.regs)).respond
      (answer i s.regs).resp (answer i s.regs).rdata) := by
  rw [step_host_ok hr h hd, exec_eq]
  rfl

/-- An accepted MULT of a valid scalar (R162). -/
theorem cmdWrite_mult_valid {r : Regs} (hb : r.busy = false) (hf : r.fault = false)
    (h1 : 1 ≤ scalarValue r.scalar) (h2 : scalarValue r.scalar < groupOrder) :
    r.cmdWrite 0x00000002#32 = { r.clearResult with
      valid := true, reason := 0#2, k := BitVec.ofNat 256 (scalarValue r.scalar)
      errcode := 0#4, busy := true, done := false } := by
  simp [Regs.cmdWrite, hb, hf, Regs.acceptCmd, Regs.multAccept, classify_valid h1 h2, errNone, Regs.clearResult]

theorem decode_memWrite (off : BitVec 8) (w : Word) : decode (memWrite off w) = decodeSelector (1#1 ++ off) w := by
  simp [decode, decodeTransaction, memWrite, Transaction.selector]

theorem decode_memRead (off : BitVec 8) : decode (memRead off) = decodeSelector (0#1 ++ off) 0#32 := by
  simp [decode, decodeTransaction, memRead, Transaction.selector]

/-- A SCALAR write by register name is its row (R50, R114). -/
theorem decode_write_scalar (i : Fin 8) (w : Word) :
    decode (memWrite (RegName.off (.scalar i)) w) = .ok (.wrScalar i w) := by
  rw [decode_memWrite]
  fin_cases i <;> rfl

end Sys2Proof.Machine
end

