-- ==== Sys2Proof/Tests/Slice0.lean ====
section
/-! SUPPORT. Tests. Expected values are the spec's: the tables and programs of 95_test_vectors.md, and words written out
from the encodings of 30_encoding.md. The last part shows, for every obligation with hypotheses, states and operands
that meet them. -/

namespace Sys2Proof.Tests

open Sys2Proof Sys2Proof.Machine

/-! ### Small states -/

def words (a b c d e f g h : Nat) : Words8 :=
  #v[BitVec.ofNat 32 a, BitVec.ofNat 32 b, BitVec.ofNat 32 c, BitVec.ofNat 32 d, BitVec.ofNat 32 e, BitVec.ofNat 32 f,
    BitVec.ofNat 32 g, BitVec.ofNat 32 h]

/-- The scalars of the order boundary (95_test_vectors.md W1). -/
def wordsN : Words8 :=
  words 0xFFFFFFFF 0xFFFFFFFF 0xFFFFFFFF 0xFFFFFFFE 0xBAAEDCE6 0xAF48A03B 0xBFD25E8C 0xD0364141
def wordsNm1 : Words8 :=
  words 0xFFFFFFFF 0xFFFFFFFF 0xFFFFFFFF 0xFFFFFFFE 0xBAAEDCE6 0xAF48A03B 0xBFD25E8C 0xD0364140
def wordsOne : Words8 := words 0 0 0 0 0 0 0 1
def wordsOnes : Words8 := Vector.replicate 8 0xFFFFFFFF#32

/-- The reset state with registers changed. -/
def withRegs (r : Regs) : State := { State.reset with regs := r }

/-- Idle with a scalar loaded. -/
def idle (w : Words8) : State := withRegs { Regs.reset with scalar := w }

/-- After an accepted MULT of `k`: BUSY, VALID. -/
def running (k : Nat) : State :=
  withRegs { Regs.reset with busy := true, valid := true, k := BitVec.ofNat 256 k, scalar := wordsOne }

/-- STATUS = 0x0000000E, a completed result that stands for one. -/
def finished : State :=
  withRegs { Regs.reset with
    done := true, valid := true, outValid := true, scalar := wordsOne, pubkeyPrefix := 0x03#8
    pubkeyX := words 9 8 7 6 5 4 3 2 }

/-- STATUS = 0x00001112, the fault state of `k = 0`. -/
def faulted : State :=
  { withRegs { Regs.reset with done := true, fault := true, reason := 1#2, errcode := 1#4 } with faultMark := true }

def regsOf : Result → Option Regs
  | .next t => some t.regs
  | _ => none

/-- STATUS after, by the word RD STATUS returns. -/
def statusOf (o : Result) : Option Word := (regsOf o).map statusWord

def responseOf : Result → Option Response
  | .next t => t.response
  | _ => none

/-- A state with one event waiting. -/
def waiting (s : State) (e : Event) : State := { s with agenda := [e] }

/-! ### Well-formedness: one ill-formed transaction for each check -/

def goodRead : Transaction := { write := false, off := 0x08#8, size := 4, strb := 0#4, wdata := 0#32 }

theorem test_wf_good : goodRead.wellFormed = true := by decide
theorem test_wf_width : { goodRead with size := 1 }.wellFormed = false ∧
    { goodRead with size := 1 }.widthOk = false := by decide
theorem test_wf_strobes : { goodRead with write := true, strb := 0b0111#4 }.wellFormed = false ∧
    { goodRead with write := true, strb := 0b0111#4 }.strobesOk = false := by decide
theorem test_wf_aligned : { goodRead with off := 0x0A#8 }.wellFormed = false ∧
    { goodRead with off := 0x0A#8 }.aligned = false := by decide
theorem test_wf_mapped : { goodRead with off := 0x14#8 }.wellFormed = false ∧
    { goodRead with off := 0x14#8 }.mapped = false := by decide
theorem test_wf_mapped_ends : { goodRead with off := 0x5C#8 }.mapped = true ∧
    { goodRead with off := 0x60#8 }.mapped = false ∧ { goodRead with off := 0x1C#8 }.mapped = false ∧
    { goodRead with off := 0x20#8 }.mapped = true := by decide
theorem test_wf_op : (HostOp.bus { goodRead with size := 2 }).wellFormed = false ∧
    (HostOp.cmd 0xFFFFFFFF#32).wellFormed = true := by decide
theorem test_wf_labels : wellLabelled [.label 1, .rd .status 0, .bz 0 2#32 1] = true ∧
    wellLabelled [.rd .status 0, .bz 0 2#32 1] = false ∧ wellLabelled [.bnz 0 2#32 1] = false := by decide

/-! ### Decoding: a word of every row, bit by bit (R71, R72, R74) -/

theorem test_decode_nop : decodeTableWord 32 0b0000000000000000_0000000000000000 = some .nop := by decide
theorem test_decode_validate : decodeTableWord 32 0b0000000000000000_0000000000000001 = some .validate := by decide
theorem test_decode_mult : decodeTableWord 32 0b0000000000000000_0000000000000010 = some .mult := by decide
theorem test_decode_zeroize : decodeTableWord 32 0b0000000000000000_0000000000000011 = some .zeroize := by decide
theorem test_decode_rdId : decodeTableWord 9 0b0_000_000_00 = some .rdId := by decide
theorem test_decode_wrId : decodeTableWord 41 0b00010010001101000101011001111000_1_000_000_00 =
    some (.wrId 0x12345678#32) := by decide
theorem test_decode_rdCtrl : decodeTableWord 9 0b0_000_001_00 = some .rdCtrl := by decide
theorem test_decode_wrCtrl : decodeTableWord 41 0b00000000000000000000000000000010_1_000_001_00 =
    some (.wrCtrl 2#32) := by decide
theorem test_decode_rdStatus : decodeTableWord 9 0b0_000_010_00 = some .rdStatus := by decide
theorem test_decode_wrStatus : decodeTableWord 41 0b00000000000000000000000000100010_1_000_010_00 =
    some (.wrStatus 0x22#32) := by decide
theorem test_decode_rdCmd : decodeTableWord 9 0b0_000_011_00 = some .rdCmd := by decide
theorem test_decode_wrCmd : decodeTableWord 41 0b00000000000000000000000100000010_1_000_011_00 =
    some (.wrCmd 0x102#32) := by decide
theorem test_decode_rdPubkeyPrefix : decodeTableWord 9 0b0_000_100_00 = some .rdPubkeyPrefix := by decide
theorem test_decode_wrPubkeyPrefix : decodeTableWord 41 0b10000000000000000000000000000001_1_000_100_00 =
    some (.wrPubkeyPrefix 0x80000001#32) := by decide
theorem test_decode_rdScalar : decodeTableWord 9 0b0_001_011_00 = some (.rdScalar 3) := by decide
theorem test_decode_wrScalar : decodeTableWord 41 0b11010000001101100100000101000001_1_001_111_00 =
    some (.wrScalar 7 0xD0364141#32) := by decide
theorem test_decode_rdPubkeyX : decodeTableWord 9 0b0_010_110_00 = some (.rdPubkeyX 6) := by decide
theorem test_decode_wrPubkeyX : decodeTableWord 41 0b00000000000000000000000000000001_1_010_000_00 =
    some (.wrPubkeyX 0 1#32) := by decide

/-- R75: bits 31:8 decide too. -/
theorem test_decode_illegal_cmd : decode (.cmd 0x102#32) = .ok (.wrCmd 0x102#32) := by decide
/-- 95_test_vectors.md 2.4: the width is checked before the alignment, the alignment before the map (R78). -/
theorem test_decode_error_order :
    decode (.bus { goodRead with size := 1, off := 0x62#8 }) = .error .accessWidth ∧
    decode (.bus { goodRead with off := 0x62#8 }) = .error .misaligned ∧
    decode (.bus { goodRead with off := 0xFC#8 }) = .error .unmapped := ⟨rfl, rfl, rfl⟩

/-! ### Register access (95_test_vectors.md, 2.4) -/

theorem test_rdId : responseOf (exec .rdId faulted) = some ⟨.ok, 0x534B3101#32⟩ := by decide
theorem test_wrId : responseOf (exec (.wrId 0#32) finished) = some ⟨.err, 0#32⟩ := by decide
theorem test_rdCtrl : responseOf (exec .rdCtrl (withRegs { Regs.reset with irqEn := true, done := true })) =
    some ⟨.ok, 1#32⟩ := by decide
/-- `WR CTRL, 0xFFFFFFFD`: IRQ_EN = 1, no reset. -/
theorem test_wrCtrl_irqEn : regsOf (exec (.wrCtrl 0xFFFFFFFD#32) finished) =
    some { finished.regs with irqEn := true } := by decide
/-- `WR CTRL, 0x3` in any phase resets. -/
theorem test_wrCtrl_srst : regsOf (exec (.wrCtrl 3#32) (running 1)) = some Regs.reset := by decide
theorem test_rdStatus : responseOf (exec .rdStatus faulted) = some ⟨.ok, 0x1112#32⟩ := by decide
/-- `WR STATUS, 0xFFFFFFFF` with STATUS = 0x2E gives 0x0C. -/
theorem test_wrStatus : statusOf (exec (.wrStatus 0xFFFFFFFF#32)
    (withRegs { finished.regs with drop := true })) = some 0x0C#32 := by decide
/-- `WR STATUS, 0x10` does not clear FAULT. -/
theorem test_wrStatus_fault : statusOf (exec (.wrStatus 0x10#32) faulted) = some 0x1112#32 := by decide
theorem test_rdCmd : responseOf (exec .rdCmd finished) = some ⟨.ok, 0#32⟩ := by decide
theorem test_rdScalar : responseOf (exec (.rdScalar 7) (idle wordsN)) = some ⟨.ok, 0#32⟩ := by decide
theorem test_wrScalar_faulted : (regsOf (exec (.wrScalar 0 1#32) faulted)).map Regs.scalar =
    some (words 1 0 0 0 0 0 0 0) := by decide
theorem test_wrScalar_busy : regsOf (exec (.wrScalar 0 1#32) (running 1)) =
    some { (running 1).regs with drop := true } := by decide
theorem test_rdPubkeyPrefix : responseOf (exec .rdPubkeyPrefix finished) = some ⟨.ok, 3#32⟩ := by decide
theorem test_wrPubkeyPrefix : responseOf (exec (.wrPubkeyPrefix 2#32) finished) = some ⟨.err, 0#32⟩ := by decide
theorem test_rdPubkeyX : responseOf (exec (.rdPubkeyX 1) finished) = some ⟨.ok, 8#32⟩ := by decide
theorem test_wrPubkeyX : responseOf (exec (.wrPubkeyX 0 0#32) finished) = some ⟨.err, 0#32⟩ := by decide

/-! ### Commands (95_test_vectors.md, W1, 2.1, 2.2, 2.5) -/

theorem test_nop : statusOf (exec .nop State.reset) = some 0x2#32 := by decide
theorem test_nop_finished : statusOf (exec .nop finished) = some 0xE#32 := by decide
theorem test_validate_boundary : statusOf (exec .validate (idle wordsNm1)) = some 0x6#32 ∧
    statusOf (exec .validate (idle wordsN)) = some 0x202#32 := by decide
/-- The words above `n` in their low part, the top word below (2.1), and zero. -/
theorem test_validate_order :
    statusOf (exec .validate (idle (words 0xFFFFFFFE 0xFFFFFFFF 0xFFFFFFFF 0xFFFFFFFF 0xFFFFFFFF 0xFFFFFFFF
      0xFFFFFFFF 0xFFFFFFFF))) = some 0x6#32 ∧
    statusOf (exec .validate (idle (words 0xFFFFFFFF 0xFFFFFFFF 0xFFFFFFFF 0xFFFFFFFF 0 0 0 0))) = some 0x202#32 ∧
    statusOf (exec .validate State.reset) = some 0x102#32 := by decide
theorem test_mult_accept : statusOf (exec .mult (idle wordsNm1)) = some 0x5#32 := by decide
theorem test_mult_fault : statusOf (exec .mult (idle wordsN)) = some 0x1212#32 ∧
    statusOf (exec .mult State.reset) = some 0x1112#32 := by decide
theorem test_zeroize : regsOf (exec .zeroize finished) = some { Regs.reset with done := true } := by decide
theorem test_zeroize_faulted : statusOf (exec .zeroize (withRegs { faulted.regs with done := false })) =
    some 0x1112#32 := by decide
theorem test_wrCmd_illegal : statusOf (exec (.wrCmd 0x4#32) State.reset) = some 0x2002#32 ∧
    statusOf (exec (.wrCmd 0x102#32) finished) = some 0x200E#32 := by decide
/-- `WR CMD, 0x3` while BUSY is dropped (2.4). -/
theorem test_wrCmd_busy : regsOf (exec (.wrCmd 3#32) (running 1)) =
    some { (running 1).regs with drop := true } := by decide

/-! ### The Engine (95_test_vectors.md, 2.3): prefix and X words of V1, V2, V3, V7 -/

def keyOf (o : Result) : Option (Byte × Words8) := (regsOf o).map fun r => (r.pubkeyPrefix, r.pubkeyX)

theorem test_engine_V1 : keyOf (step (waiting (running 1) .engine)) = some (0x02#8,
    words 0x79BE667E 0xF9DCBBAC 0x55A06295 0xCE870B07 0x029BFCDB 0x2DCE28D9 0x59F2815B 0x16F81798) := by
  decide +kernel
theorem test_engine_V2 : keyOf (step (running 2)) = some (0x02#8,
    words 0xC6047F94 0x41ED7D6D 0x3045406E 0x95C07CD8 0x5C778E4B 0x8CEF3CA7 0xABAC09B9 0x5C709EE5) := by
  decide +kernel
theorem test_engine_V3 : keyOf (step (running 3)) = some (0x02#8,
    words 0xF9308A01 0x9258C310 0x49344F85 0xF89D5229 0xB531C845 0x836F99B0 0x8601F113 0xBCE036F9) := by
  decide +kernel
/-- Leading zero bytes kept (R166). -/
theorem test_engine_V7 : keyOf (step (running 0x7FFFFFFFFFFFFFFFFFFFFFFFFFFFFFFF5D576E7357A4501DDFE92F46681B20A0)) =
    some (0x03#8,
      words 0x00000000 0x00000000 0x0000003B 0x78CE563F 0x89A0ED94 0x14F5AA28 0xAD0D96D6 0x795F9C63) := by
  decide +kernel
theorem test_engine_status : statusOf (step (running 3)) = some 0xE#32 := by decide +kernel

/-! ### Interrupt, host programs -/

/-- 2.6. -/
theorem test_irq : irq { Regs.reset with done := true } = false ∧ irq { Regs.reset with irqEn := true } = false ∧
    irq { Regs.reset with irqEn := true, done := true } = true := by decide
/-- R80: `SRST` and `POLLDONE`. -/
theorem test_pseudo : Pseudo.expand .srst = [.wr .ctrl 2#32] ∧
    Pseudo.expand (.pollDone 5 1) = [.label 1, .rd .status 5, .bz 5 2#32 1] := by decide
/-- A master's read brings the word into its variable (R79). -/
theorem test_master_read : (match systemRun [.rd .id 4] [.master] (⟨0, []⟩, State.reset) with
    | .next sys => sys.1.value 4
    | _ => 0#32) = 0x534B3101#32 := by decide

/-! ### Witnesses: the hypotheses of every obligation are met, each clause at the values where it begins -/

/-- `n·G = O` and the like are expensive; `1·G = G` is not. -/
theorem one_mul_G : Point.mul 1 generator = .affine
    0x79BE667EF9DCBBAC55A06295CE870B07029BFCDB2DCE28D959F2815B16F81798
    0x483ADA7726A3C4655DA4FBFC0E1108A8FD17B448A68554199C47D08FFB10D4B8 := by decide +kernel

theorem generator_onCurve : generator.onCurve = true := by decide +kernel

/-- A state whose next event is a transaction, or a command word. -/
def withOp (s : State) (op : HostOp) : State := waiting s (.host op)

theorem witness_HardwareReset : (waiting (running 1) .reset).agenda = .reset :: [] := rfl

theorem witness_ResultRegistersRead : State.reset.regs.Inv ∧ State.reset.regs.outValid = false := by decide

theorem witness_WriteScalar : (idle wordsN).regs.busy = false ∧ faulted.regs.busy = false ∧
    (running 1).regs.busy = true ∧ (0 : Fin 8) ≠ 7 := by decide

theorem witness_WritesWhileBusy : (running 1).regs.busy = true ∧ Instr.mult.cmdWord ≠ none ∧
    (Instr.wrCmd 0xFFFFFFFF#32).cmdWord ≠ none ∧ (∃ n w, Instr.wrScalar 7 1#32 = .wrScalar n w) ∧
    Instr.wrStatus 2#32 ∈ [Instr.wrCtrl 2#32, Instr.wrStatus 2#32] ∧
    (exec (.wrStatus 2#32) (withRegs { (running 1).regs with drop := true }) =
      .next (((withRegs { (running 1).regs with drop := true })).respond .ok 0#32)) :=
  ⟨rfl, by decide, by decide, ⟨7, 1#32, rfl⟩, by decide, rfl⟩

theorem witness_Reads : Instr.rdId.isRead = true ∧ Instr.rdCmd.isRead = true ∧ (Instr.rdScalar 7).isRead = true ∧
    (Instr.rdPubkeyX 0).isRead = true := by decide

/-- A read of STATUS, and one at a reserved offset, waiting twice. -/
theorem witness_ReadTransactions : goodRead.write = false ∧
    (∃ s : State, s.resetSeen = true ∧ s.agenda = .host (.bus goodRead) :: .host (.bus goodRead) :: []) ∧
    decode (.bus { goodRead with off := 0xFC#8 }) = .error .unmapped :=
  ⟨rfl, ⟨{ faulted with agenda := [.host (.bus goodRead), .host (.bus goodRead)] }, rfl, rfl⟩, rfl⟩

/-- NOP, VALIDATE, ZEROIZE, an illegal word. -/
theorem witness_Accepted : finished.regs.busy = false ∧ finished.regs.fault = false ∧ 4 ≤ (4#32 : Word).toNat ∧
    4 ≤ (0xFFFFFFFF#32 : Word).toNat := by decide

/-- The two ends of the valid scalars. -/
theorem witness_MultValid : (idle wordsOne).regs.busy = false ∧ (idle wordsOne).regs.fault = false ∧
    scalarValue wordsOne = 1 ∧ 1 < groupOrder ∧ scalarValue wordsNm1 = groupOrder - 1 ∧
    1 ≤ scalarValue wordsNm1 ∧ scalarValue wordsNm1 < groupOrder := by decide

theorem witness_MultInvalid : (idle wordsN).regs.busy = false ∧ (idle wordsN).regs.fault = false ∧
    ¬ (1 ≤ scalarValue wordsN ∧ scalarValue wordsN < groupOrder) ∧
    ¬ (1 ≤ scalarValue zeroWords ∧ scalarValue zeroWords < groupOrder) ∧
    ¬ (1 ≤ scalarValue wordsOnes ∧ scalarValue wordsOnes < groupOrder) := by decide

theorem witness_CommandsInFaultState : faulted.regs.busy = false ∧ faulted.regs.fault = true ∧
    Instr.zeroize.cmdWord = some 3#32 ∧ (Instr.wrCmd 3#32).cmdWord = some 3#32 ∧
    Instr.mult.cmdWord = some 2#32 ∧ (Instr.wrCmd 4#32).cmdWord = some 4#32 ∧ (4#32 : Word) ≠ 3#32 := by decide

theorem witness_EngineCompletesMult : (waiting (running 1) .engine).resetSeen = true ∧
    (waiting (running 1) .engine).regs.busy = true ∧ (waiting (running 1) .engine).agenda = .engine :: [] ∧
    Point.mul (running 1).regs.k.toNat generator = .affine
      0x79BE667EF9DCBBAC55A06295CE870B07029BFCDB2DCE28D959F2815B16F81798
      0x483ADA7726A3C4655DA4FBFC0E1108A8FD17B448A68554199C47D08FFB10D4B8 := by
  refine ⟨rfl, rfl, rfl, ?_⟩
  rw [show (running 1).regs.k.toNat = 1 from rfl, one_mul_G]

theorem witness_EngineTurnIdle : (waiting finished .engine).resetSeen = true ∧
    (waiting finished .engine).agenda = .engine :: [] ∧ (waiting finished .engine).regs.busy = false ∧
    ∃ t, step (waiting finished .engine) = .next t := ⟨rfl, rfl, rfl, _, rfl⟩

theorem witness_EventsOfTheAgenda : finished.resetSeen = true ∧ finished.regs.busy = false ∧
    (running 1).regs.busy = true ∧ (waiting faulted .reset).agenda = .reset :: [] := by decide

theorem witness_CompressedKey : (0 : Nat) < 2 ^ 256 ∧ 2 ^ 256 - 1 < 2 ^ 256 := by decide

/-- Two states with one scalar and different histories. -/
theorem witness_ResultDependsOnScalarAlone :
    ∃ s u : State, s.resetSeen = true ∧ u.resetSeen = true ∧ s.regs.busy = false ∧ u.regs.busy = false ∧
      s.regs.fault = false ∧ u.regs.fault = false ∧ s.regs.scalar = u.regs.scalar ∧ 1 ≤ scalarValue s.regs.scalar ∧
      scalarValue s.regs.scalar < groupOrder ∧ s.agenda = .host (.cmd 2#32) :: .engine :: [] ∧
      u.agenda = .host (.cmd 2#32) :: .engine :: [.reset] ∧ s.regs ≠ u.regs :=
  ⟨{ idle wordsOne with agenda := [.host (.cmd 2#32), .engine] },
    { finished with agenda := [.host (.cmd 2#32), .engine, .reset] }, by decide⟩

theorem witness_RunningMultIsUndisturbed : ∃ s t : State, s.regs.busy = true ∧ s.nextIsReset = false ∧
    s.nextIsEngine = false ∧ step s = .next t ∧ t.regs.drop = true :=
  ⟨withOp (running 1) (memWrite 0x0C#8 3#32), _, rfl, by decide, by decide, rfl, by decide⟩

theorem witness_RunningMultCompletes : ∃ s : State, s.resetSeen = true ∧ s.regs.busy = true ∧
    s.agenda.length = 3 ∧ ∀ e ∈ s.agenda, e.sparesEngine = true :=
  ⟨{ running 1 with agenda := [.host (memRead 0x08#8), .host (memWrite 0x04#8 1#32), .host (.cmd 4#32)] }, by decide⟩

theorem witness_Derivation : ∃ s : State, s.resetSeen = true ∧ s.regs.busy = false ∧ s.regs.fault = false ∧
    1 ≤ scalarValue wordsOne ∧ scalarValue wordsOne < groupOrder ∧
    (∃ x y, Point.mul (scalarValue wordsOne) generator = .affine x y) ∧
    s.agenda = ((List.finRange 8).map fun i => Event.host (memWrite (RegName.off (.scalar i)) wordsOne[i])) ++
      .host (memWrite (RegName.off .cmd) 2#32) :: .engine :: [] :=
  ⟨{ finished with agenda := _ }, rfl, rfl, rfl, by decide, by decide,
    ⟨_, _, by rw [show scalarValue wordsOne = 1 by decide]; exact one_mul_G⟩, rfl⟩

theorem witness_Curve : generator.onCurve = true ∧ Point.infinity.onCurve = true ∧ (2 ^ 256 - 1 : Nat) < 2 ^ 256 ∧
    (2 : Nat) % fieldPrime ≠ 0 ∧ (fieldPrime + 1) % fieldPrime ≠ 0 := ⟨generator_onCurve, by decide⟩

/-- A doubling and a chord: `G` with itself, and `G` with `2G` (V2). -/
theorem witness_Slope : (Point.affine 0xC6047F9441ED7D6D3045406E95C07CD85C778E4B8CEF3CA7ABAC09B95C709EE5
      0x1AE168FEA63DC339A3C58419466CEAEEF7F632653266D0E1236431A950CFE52A).onCurve = true ∧
    generator.onCurve = true ∧
    (0x483ADA7726A3C4655DA4FBFC0E1108A8FD17B448A68554199C47D08FFB10D4B8 +
      0x483ADA7726A3C4655DA4FBFC0E1108A8FD17B448A68554199C47D08FFB10D4B8) % fieldPrime ≠ 0 ∧
    (0x79BE667EF9DCBBAC55A06295CE870B07029BFCDB2DCE28D959F2815B16F81798 : Nat) ≠
      0xC6047F9441ED7D6D3045406E95C07CD85C778E4B8CEF3CA7ABAC09B95C709EE5 := by decide +kernel

/-- `k` at both ends of R160. -/
theorem witness_ValidScalar : (1 ≤ 1 ∧ 1 ≤ groupOrder - 1) ∧ 1 ≤ groupOrder - 1 ∧
    groupOrder - 1 ≤ groupOrder - 1 := by decide

/-- One transaction for each side of each equivalence. -/
theorem witness_DecodeChecksInOrder :
    goodRead.wellFormed = true ∧
    ({ goodRead with size := 5 }.widthOk && { goodRead with size := 5 }.strobesOk) = false ∧
    ((goodRead.widthOk && goodRead.strobesOk) = true ∧ { goodRead with off := 0xFF#8 }.aligned = false) ∧
    (goodRead.widthOk && goodRead.strobesOk) = true ∧ { goodRead with off := 0xFC#8 }.aligned = true ∧
      { goodRead with off := 0xFC#8 }.mapped = false := by decide

/-- Each way to be a bad transaction, at the ends of the reserved ranges. -/
theorem witness_BadTransactions : (withOp faulted (.bus goodRead)).resetSeen = true ∧
    { goodRead with size := 3 }.size ≠ 4 ∧
    ({ goodRead with write := true, strb := 0b1110#4 }.write = true ∧
      { goodRead with write := true, strb := 0b1110#4 }.strb ≠ 0b1111#4) ∧
    (0x09#8 : BitVec 8).toNat % 4 ≠ 0 ∧
    (0x14 ≤ (0x14#8 : BitVec 8).toNat ∧ (0x1F#8 : BitVec 8).toNat ≤ 0x1F) ∧ 0x60 ≤ (0x60#8 : BitVec 8).toNat ∧
    0x60 ≤ (0xFF#8 : BitVec 8).toNat := by decide

theorem witness_StepRuns : ∃ (s : State) (op : HostOp), s.resetSeen = true ∧ s.agenda = .host op :: [.engine] ∧
    decode op = .ok (.wrScalar 7 1#32) ∧ decodeTableWord 9 0x00C = some .rdCmd :=
  ⟨{ faulted with agenda := [.host (memWrite 0x3C#8 1#32), .engine] }, memWrite 0x3C#8 1#32, rfl, rfl, rfl, by decide⟩

theorem witness_Window : Config.baseAddr + 0xFF < Config.baseAddr + 0x100 ∧
    (0 < Config.basePage → Config.baseAddr - 1 < Config.baseAddr) := by
  refine ⟨by omega, fun h => ?_⟩
  have : 0 < Config.baseAddr := Nat.mul_pos (by decide) h
  omega

/-- The invariants hold in a running, a finished and a faulted state, each of which steps. -/
theorem witness_Invariants : (running 1).Inv ∧ (running 1).FullInv ∧ finished.FullInv ∧ faulted.FullInv ∧
    (∃ t, step (running 1) = .next t) ∧ (∃ t, step (withOp faulted (.cmd 3#32)) = .next t) :=
  ⟨by decide, by decide, by decide, by decide, ⟨_, rfl⟩, ⟨_, rfl⟩⟩

/-- BUSY: set by MULT, cleared by the Engine, by a soft and by a hardware reset, kept by a dropped write. -/
theorem witness_Busy :
    (∃ t, step (withOp (idle wordsOne) (.cmd 2#32)) = .next t ∧ t.regs.busy = true) ∧
    (∃ t, step (waiting (running 1) .engine) = .next t ∧ t.regs.busy = false) ∧
    (∃ t, step (withOp (running 1) (memWrite 0x04#8 2#32)) = .next t ∧ t.regs.busy = false) ∧
    (∃ t, step (waiting (running 1) .reset) = .next t ∧ t.regs.busy = false) ∧
    (withOp (running 1) (memWrite 0x20#8 1#32)).nextInstr = some (.wrScalar 0 1#32) :=
  ⟨⟨_, rfl, by decide⟩, ⟨_, rfl, rfl⟩, ⟨_, rfl, by decide⟩, ⟨_, rfl, rfl⟩, rfl⟩

/-- DONE kept by a dropped write, and cleared by a reset. -/
theorem witness_DoneKept : (withOp (running 1) (.cmd 3#32)).nextCmd = some 3#32 ∧
    (withOp (running 1) (memWrite 0x3C#8 1#32)).nextInstr = some (.wrScalar 7 1#32) ∧
    (running 1).nextIsEngine = true ∧ (waiting finished .reset).nextIsReset = true ∧
    (withOp finished (memWrite 0x08#8 2#32)).nextInstr = some (.wrStatus 2#32) := by decide

/-- DONE: set by a command and by the Engine, cleared by STATUS and by an accepted MULT. -/
theorem witness_Done :
    (∃ t, step (withOp State.reset (.cmd 0#32)) = .next t ∧ t.regs.done = true) ∧
    (∃ t, step (waiting (running 1) .engine) = .next t ∧ t.regs.done = true) ∧
    (∃ t, step (withOp finished (memWrite 0x08#8 2#32)) = .next t ∧ t.regs.done = false) ∧
    (∃ t, step (withOp finished (.cmd 2#32)) = .next t ∧ t.regs.done = false) :=
  ⟨⟨_, rfl, by decide⟩, ⟨_, rfl, rfl⟩, ⟨_, rfl, by decide⟩, ⟨_, rfl, by decide⟩⟩

/-- VALID and REASON: written by VALIDATE and by MULT, cleared by ZEROIZE and by reset. -/
theorem witness_ValidAndReason :
    (∃ t, step (withOp (idle wordsN) (.cmd 1#32)) = .next t ∧ t.regs.reason = 2#2) ∧
    (∃ t, step (withOp (idle wordsOne) (.cmd 2#32)) = .next t ∧ t.regs.valid = true) ∧
    (∃ t, step (withOp finished (.cmd 3#32)) = .next t ∧ t.regs.valid = false) ∧
    (∃ t, step (waiting finished .reset) = .next t ∧ t.regs.valid = false) ∧
    (withOp finished (memWrite 0x0C#8 1#32)).nextCmd = some 1#32 :=
  ⟨⟨_, rfl, by decide⟩, ⟨_, rfl, by decide⟩, ⟨_, rfl, by decide⟩, ⟨_, rfl, rfl⟩, rfl⟩

/-- OUT_VALID: set by the Engine, cleared by MULT and by ZEROIZE in both states; (I4). -/
theorem witness_OutValid :
    (∃ t, step (running 1) = .next t ∧ t.regs.outValid = true) ∧ finished.regs.outValid = true ∧
    (∃ t, step (withOp finished (.cmd 2#32)) = .next t ∧ t.regs.outValid = false) ∧
    (∃ t, step (withOp finished (.cmd 3#32)) = .next t ∧ t.regs.outValid = false) ∧
    (∃ t, step (withOp (withRegs { finished.regs with fault := true }) (.cmd 3#32)) = .next t ∧
      t.regs.outValid = false) ∧ finished.regs.I4 ∧ State.reset.regs.I4 :=
  ⟨⟨_, rfl, rfl⟩, rfl, ⟨_, rfl, by decide⟩, ⟨_, rfl, by decide⟩, ⟨_, rfl, by decide⟩, by decide, by decide⟩

/-- FAULT: set by MULT with `k = n`, with its mark; kept by a command; cleared by reset. -/
theorem witness_Fault :
    (∃ t, step (withOp (idle wordsN) (.cmd 2#32)) = .next t ∧ t.regs.fault = true ∧ t.faultMark = true) ∧
    (∃ t, step (withOp faulted (.cmd 1#32)) = .next t ∧ (withOp faulted (.cmd 1#32)).nextIsReset = false ∧
      t.regs.fault = true) ∧
    (∃ t, step (waiting faulted .reset) = .next t ∧ t.regs.fault = false ∧ t.faultMark = true) :=
  ⟨⟨_, rfl, by decide, by decide⟩, ⟨_, rfl, by decide, by decide⟩, ⟨_, rfl, by decide, by decide⟩⟩

/-- DROP: set by a dropped write, cleared by STATUS and by reset. -/
theorem witness_Drop :
    (∃ t, step (withOp (running 1) (memWrite 0x3C#8 3#32)) = .next t ∧ t.regs.drop = true) ∧
    (∃ t, step (withOp (running 1) (.cmd 3#32)) = .next t ∧ t.regs.drop = true) ∧
    (∃ t, step (withOp (withRegs { finished.regs with drop := true }) (memWrite 0x08#8 0x20#32)) = .next t ∧
      t.regs.drop = false) ∧
    (∃ t, step (waiting (withRegs { finished.regs with drop := true }) .reset) = .next t ∧ t.regs.drop = false) :=
  ⟨⟨_, rfl, by decide⟩, ⟨_, rfl, by decide⟩, ⟨_, rfl, by decide⟩, ⟨_, rfl, rfl⟩⟩

/-- The data registers, K and IRQ_EN each written by a step that is no reset. -/
theorem witness_DataRegisters :
    (∃ t, step (withOp finished (memWrite 0x20#8 1#32)) = .next t ∧ t.regs.scalar ≠ finished.regs.scalar) ∧
    (∃ t, step (withOp finished (.cmd 3#32)) = .next t ∧ t.regs.pubkeyX ≠ finished.regs.pubkeyX) ∧
    (∃ t, step (withOp (idle wordsOne) (.cmd 2#32)) = .next t ∧ t.regs.k ≠ (idle wordsOne).regs.k) ∧
    (∃ t, step (withOp finished (memWrite 0x04#8 1#32)) = .next t ∧ t.regs.irqEn ≠ finished.regs.irqEn) ∧
    (withOp finished (.cmd 3#32)).nextIsReset = false :=
  ⟨⟨_, rfl, by decide⟩, ⟨_, rfl, by decide⟩, ⟨_, rfl, by decide⟩, ⟨_, rfl, by decide⟩, by decide⟩

theorem witness_Irq : finished.regs.done = true ∧
    (∃ t, exec (.wrCtrl 1#32) finished = .next t ∧ irq t.regs = true) := ⟨rfl, _, rfl, by decide⟩

/-- Two states that differ in SCALAR and in K. -/
theorem witness_Secrets : (running 1).regs.sameButSecrets { (running 1).regs with scalar := wordsN, k := 2#256 } ∧
    (running 1).regs ≠ { (running 1).regs with scalar := wordsN, k := 2#256 } := ⟨rfl, by decide⟩

end Sys2Proof.Tests
end

/-! SUPPORT. Proofs of 00_scope.md: the fault mark of R10, and how the agenda drives the Engine and the reset. -/

namespace Sys2Proof.Machine

/-- Registers that do not raise FAULT leave the fault mark as it is. -/
theorem State.commit_eq_of_no_rise {s : State} {r : Regs} (h : r.fault = true → s.regs.fault = true) :
    s.commit r = { s with regs := r } := by
  have hrise : (!s.regs.fault && r.fault) = false := by
    cases hr : r.fault
    · simp
    · simp [h hr]
  simp [State.commit, hrise]

/-- The completion of MULT keeps FAULT, so it makes no mark. -/
theorem State.commit_multComplete (s : State) :
    s.commit s.regs.multComplete = { s with regs := s.regs.multComplete } :=
  State.commit_eq_of_no_rise fun h => h

/-- A reset clears FAULT, so it makes no mark. -/
theorem hardwareReset_eq (s : State) : hardwareReset s = .next { s with regs := Regs.reset, resetSeen := true } := by
  rw [hardwareReset, Regs.doReset_eq, State.commit_eq_of_no_rise fun h => Bool.noConfusion h]

theorem engineTurn_idle {s : State} (hb : s.regs.busy = false) : engineTurn s = .next s := by
  simp [engineTurn_eq, hb]

theorem engineTurn_busy {s : State} (hb : s.regs.busy = true) :
    engineTurn s = .next { s with regs := s.regs.multComplete } := by
  simp [engineTurn_eq, hb, State.commit_multComplete]

/-- After the first reset an empty agenda is an Engine turn (log 2). -/
theorem step_nil_engineTurn {s : State} (hr : s.resetSeen = true) (h : s.agenda = []) : step s = engineTurn s := by
  rw [step_nil h, idleTurn, if_pos hr]

/-- The mark after any step: the mark before, or a rise of FAULT. -/
theorem step_faultMark {s t : State} (h : step s = .next t) :
    t.faultMark = (s.faultMark || (!s.regs.fault && t.regs.fault)) := by
  obtain ⟨hregs, hmark, -⟩ | ⟨-, hregs, hmark, -⟩ | ⟨-, -, -, hregs, hmark, -⟩ | ⟨i, -, -, hregs, -, -, -, hmark⟩ :=
    step_cases h
  · simp [hregs, hmark]
  · simp [hregs, hmark, Regs.reset]
  · simp [hregs, hmark]
  · rw [hregs, hmark]

/-- Settles O57: in each of `step_cases`'s four cases the mark after is the mark before or the rise of FAULT. -/
theorem faultMarkRecordsFaults : Obligations.FaultMarkRecordsFaults := by
  intro s t h
  simp [step_faultMark h]

/-- Settles O25: the registers of a completed MULT are `Regs.multComplete`, for the empty agenda and for an Engine turn
alike. -/
theorem eventsOfTheAgenda : Obligations.EventsOfTheAgenda := by
  refine ⟨fun s hr => ?_, fun s rest h => (step_reset h).trans (hardwareReset_eq _)⟩
  have hnil := step_nil_engineTurn (s := { s with agenda := [] }) hr rfl
  have hengine rest := step_engine (s := { s with agenda := .engine :: rest }) hr rfl
  constructor
  · intro hb
    exact ⟨hnil.trans (engineTurn_idle hb), fun rest => (hengine rest).trans (engineTurn_idle hb)⟩
  · intro hb
    exact ⟨s.regs.multComplete, Regs.multComplete_busy _, Regs.multComplete_done _, Regs.multComplete_outValid _,
      hnil.trans (engineTurn_busy hb), fun rest => (hengine rest).trans (engineTurn_busy hb)⟩

end Sys2Proof.Machine

/-! SUPPORT. What one step can do to the registers, with its cause: the layer under the proofs of 10_state.md. -/

namespace Sys2Proof.Machine

section FieldsLeftAlone
variable (r : Regs)

@[simp] theorem Regs.dropWrite_irqEn : r.dropWrite.irqEn = r.irqEn := rfl
@[simp] theorem Regs.dropWrite_done : r.dropWrite.done = r.done := rfl
@[simp] theorem Regs.dropWrite_valid : r.dropWrite.valid = r.valid := rfl
@[simp] theorem Regs.dropWrite_outValid : r.dropWrite.outValid = r.outValid := rfl
@[simp] theorem Regs.dropWrite_reason : r.dropWrite.reason = r.reason := rfl
@[simp] theorem Regs.dropWrite_errcode : r.dropWrite.errcode = r.errcode := rfl
@[simp] theorem Regs.dropWrite_scalar : r.dropWrite.scalar = r.scalar := rfl
@[simp] theorem Regs.dropWrite_pubkeyPrefix : r.dropWrite.pubkeyPrefix = r.pubkeyPrefix := rfl
@[simp] theorem Regs.dropWrite_pubkeyX : r.dropWrite.pubkeyX = r.pubkeyX := rfl

@[simp] theorem Regs.clearResult_irqEn : r.clearResult.irqEn = r.irqEn := rfl
@[simp] theorem Regs.clearResult_drop : r.clearResult.drop = r.drop := rfl
@[simp] theorem Regs.clearResult_scalar : r.clearResult.scalar = r.scalar := rfl

@[simp] theorem Regs.wipe_irqEn : r.wipe.irqEn = r.irqEn := rfl
@[simp] theorem Regs.wipe_valid : r.wipe.valid = r.valid := rfl
@[simp] theorem Regs.wipe_drop : r.wipe.drop = r.drop := rfl
@[simp] theorem Regs.wipe_reason : r.wipe.reason = r.reason := rfl
@[simp] theorem Regs.wipe_errcode : r.wipe.errcode = r.errcode := rfl
@[simp] theorem Regs.wipe_pubkeyPrefix : r.wipe.pubkeyPrefix = 0x00#8 := rfl
@[simp] theorem Regs.wipe_pubkeyX : r.wipe.pubkeyX = zeroWords := rfl

end FieldsLeftAlone

/-! ### From the cause to the registers -/

theorem step_regs_of_instr {s t : State} {i : Instr} (h : step s = .next t) (hi : s.nextInstr = some i) :
    t.regs = effect i s.regs := by
  obtain ⟨-, -, -, hnone, -⟩ | ⟨-, -, -, -, hnone, -⟩ | ⟨-, -, -, -, -, -, hnone, -⟩ | ⟨j, -, hj, hregs, -⟩ :=
    step_cases h
  · simp [hi] at hnone
  · simp [hi] at hnone
  · simp [hi] at hnone
  · obtain rfl : i = j := Option.some.inj (hi.symm.trans hj)
    exact hregs

theorem step_regs_of_cmd {s t : State} {w : Word} (h : step s = .next t) (hcmd : s.nextCmd = some w) :
    t.regs = s.regs.cmdWrite w := by
  obtain ⟨i, hi, hw⟩ := Option.bind_eq_some_iff.mp hcmd
  rw [step_regs_of_instr h hi, effect_cmdWord hw]

theorem step_regs_of_reset {s t : State} (h : step s = .next t) (hreset : s.nextIsReset = true) :
    t.regs = Regs.reset := by
  obtain ⟨-, -, -, -, hno, -⟩ | ⟨-, hregs, -⟩ | ⟨-, -, -, -, -, -, -, hno⟩ | ⟨i, -, hi, hregs, -⟩ := step_cases h
  · simp [hreset] at hno
  · exact hregs
  · simp [hreset] at hno
  · obtain ⟨w, rfl, hw⟩ := (nextIsReset_of_instr hi).mp hreset
    rw [hregs, effect, if_pos hw]

theorem step_regs_of_engine {s t : State} (h : step s = .next t) (hseen : s.resetSeen = true)
    (hengine : s.nextIsEngine = true) (hbusy : s.regs.busy = true) : t.regs = s.regs.multComplete := by
  obtain ⟨-, -, -, -, -, hidle⟩ | ⟨-, -, -, -, -, hno⟩ | ⟨-, -, -, hregs, -⟩ | ⟨i, -, -, -, -, -, hno, -⟩ :=
    step_cases h
  · simp [hbusy] at hidle; simp [hidle hengine] at hseen
  · simp [hengine] at hno
  · exact hregs
  · simp [hengine] at hno

/-- The next step writes a register that BUSY guards: CMD or SCALAR (R216). -/
abbrev State.nextIsGuarded (s : State) : Prop := s.nextCmd ≠ none ∨ ∃ i w, s.nextInstr = some (.wrScalar i w)

/-- A guarded write while BUSY is dropped (R216). -/
theorem step_regs_of_dropped {s t : State} (h : step s = .next t) (hbusy : s.regs.busy = true)
    (hwrite : s.nextIsGuarded) : t.regs = s.regs.dropWrite := by
  obtain hcmd | ⟨i, w, hi⟩ := hwrite
  · obtain ⟨w, hw⟩ := Option.ne_none_iff_exists'.mp hcmd
    rw [step_regs_of_cmd h hw, Regs.cmdWrite, if_pos hbusy]
  · rw [step_regs_of_instr h hi, effect, if_pos hbusy]

theorem cmdWrite_accepted {r : Regs} (w : Word) (hbusy : r.busy = false) (hfault : r.fault = false) :
    r.cmdWrite w = Regs.acceptCmd w { r with done := false } := by
  simp [Regs.cmdWrite, hbusy, hfault]

/-- MULT refused: the fault entry (R162, R213). -/
theorem cmdWrite_mult_invalid {r : Regs} (hbusy : r.busy = false) (hfault : r.fault = false)
    (hv : ¬ (1 ≤ scalarValue r.scalar ∧ scalarValue r.scalar < groupOrder)) :
    r.cmdWrite 2#32 = { r.clearResult with
      valid := false, reason := if scalarValue r.scalar = 0 then 1#2 else 2#2
      fault := true, errcode := 1#4, done := true } := by
  simp [cmdWrite_accepted _ hbusy hfault, Regs.acceptCmd, Regs.multAccept, classify_invalid hv,
    Regs.raiseInvalidScalar, errInvalidScalar, Regs.clearResult]

/-- An accepted VALIDATE or MULT stores the classification of the scalar (R133, R162). -/
theorem cmdWrite_classifies {r : Regs} {w : Word} (hbusy : r.busy = false) (hfault : r.fault = false)
    (hw : w = 1#32 ∨ w = 2#32) :
    (r.cmdWrite w).valid = (classify (scalarValue r.scalar)).1 ∧
      (r.cmdWrite w).reason = (classify (scalarValue r.scalar)).2 := by
  obtain rfl | rfl := hw
  · simp [cmdWrite_accepted _ hbusy hfault, Regs.acceptCmd, Regs.validate]
  · by_cases hv : 1 ≤ scalarValue r.scalar ∧ scalarValue r.scalar < groupOrder
    · rw [cmdWrite_mult_valid hbusy hfault hv.1 hv.2, classify_valid hv.1 hv.2]
      exact ⟨rfl, rfl⟩
    · rw [cmdWrite_mult_invalid hbusy hfault hv, classify_invalid hv]
      exact ⟨rfl, rfl⟩

/-- Both forms of ZEROIZE are a wipe that sets DONE, apart from the check's record (R191, R192). -/
theorem cmdWrite_zeroize {r : Regs} (hbusy : r.busy = false) :
    ∃ valid reason errcode, r.cmdWrite 3#32 =
      { r.wipe with valid := valid, reason := reason, errcode := errcode, done := true } := by
  cases hfault : r.fault
  · exact ⟨_, _, _, by rw [cmdWrite_accepted _ hbusy hfault]; rfl⟩
  · exact ⟨_, _, _, by rw [Regs.cmdWrite, hbusy, hfault]; rfl⟩

/-- MULT where it is accepted and ZEROIZE in either state destroy the result (R26). -/
theorem cmdWrite_clears_result {r : Regs} {w : Word} (hbusy : r.busy = false)
    (hw : (r.fault = false ∧ w = 2#32) ∨ w = 3#32) :
    (r.cmdWrite w).outValid = false ∧ (r.cmdWrite w).pubkeyZero := by
  obtain ⟨hfault, rfl⟩ | rfl := hw
  · by_cases hv : 1 ≤ scalarValue r.scalar ∧ scalarValue r.scalar < groupOrder
    · rw [cmdWrite_mult_valid hbusy hfault hv.1 hv.2]
      exact ⟨rfl, rfl, rfl⟩
    · rw [cmdWrite_mult_invalid hbusy hfault hv]
      exact ⟨rfl, rfl, rfl⟩
  · obtain ⟨_, _, _, h⟩ := cmdWrite_zeroize hbusy
    rw [h]
    exact ⟨rfl, rfl, rfl⟩

/-- A CMD write taken while BUSY is 0 leaves DONE 0 exactly when it starts the Engine (R24). -/
theorem cmdWrite_done {r : Regs} (w : Word) (hbusy : r.busy = false) :
    (r.cmdWrite w).done = false ↔
      w = 2#32 ∧ r.fault = false ∧ 1 ≤ scalarValue r.scalar ∧ scalarValue r.scalar < groupOrder := by
  obtain ⟨h, -⟩ | ⟨-, hf, -, h⟩ | ⟨-, hf, -, h⟩ | ⟨-, -, rfl, h⟩ | ⟨-, -, rfl, h⟩ | ⟨-, hf, rfl, h1, h2, h⟩ |
    ⟨-, -, -, hv, h⟩ | ⟨-, -, rfl, h⟩ | ⟨-, -, -, -, h2, -, h⟩ := cmdWrite_cases w r
  · simp [hbusy] at h
  · simp [h, hf]
  · simp [h, hf]
  · simp [h]
  · simp [h]
  · simp [h, hf, h1, h2]
  · simp [h, hv]
  · simp [h]
  · simp [h, h2]

/-! ### From the registers to the cause -/

/-- Every change a step can make to the registers, with the cause it must have had. -/
inductive StepChange (s : State) : Regs → Prop
  /-- A read, a bus error, or a turn in which nothing moves (R59, R100; log 3). -/
  | unchanged : StepChange s s.regs
  /-- A reset of either kind (R241). -/
  | reset (hreset : s.nextIsReset = true) : StepChange s Regs.reset
  /-- The completion of a running MULT (R163). -/
  | completed (hengine : s.nextIsEngine = true) (hbusy : s.regs.busy = true) : StepChange s s.regs.multComplete
  /-- A write dropped by BUSY (R216). -/
  | dropped (hbusy : s.regs.busy = true) (hwrite : s.nextIsGuarded) : StepChange s s.regs.dropWrite
  /-- A SCALAR write (R114). -/
  | scalarStored (i : Fin 8) (w : Word) (hbusy : s.regs.busy = false) (hinstr : s.nextInstr = some (.wrScalar i w)) :
    StepChange s { s.regs with scalar := s.regs.scalar.set i w }
  /-- A CTRL write without SRST (R106). -/
  | ctrlWritten (w : Word) (hinstr : s.nextInstr = some (.wrCtrl w)) : StepChange s { s.regs with irqEn := w[0] }
  /-- A STATUS write (R108). -/
  | statusCleared (w : Word) (hinstr : s.nextInstr = some (.wrStatus w)) :
    StepChange s { s.regs with done := s.regs.done && !w[1], drop := s.regs.drop && !w[5] }
  /-- ZEROIZE in the fault state (R192). -/
  | faultedZeroize (hcmd : s.nextCmd = some 3#32) (hbusy : s.regs.busy = false) (hfault : s.regs.fault = true) :
    StepChange s { s.regs.wipe with done := true }
  /-- Any other command in the fault state (R214). -/
  | faultedCmd (w : Word) (hcmd : s.nextCmd = some w) (hbusy : s.regs.busy = false) (hfault : s.regs.fault = true) :
    StepChange s { s.regs with done := true }
  /-- NOP or an illegal command, which report their code alone (R190, R193). -/
  | codeReported (w : Word) (e : BitVec 4) (hcmd : s.nextCmd = some w) (hbusy : s.regs.busy = false)
    (hfault : s.regs.fault = false) (hcode : e = 0#4 ∨ e = 2#4) :
    StepChange s { s.regs with errcode := e, done := true }
  /-- VALIDATE (R133). -/
  | validated (hcmd : s.nextCmd = some 1#32) (hbusy : s.regs.busy = false) (hfault : s.regs.fault = false) :
    StepChange s { s.regs with
      valid := (classify (scalarValue s.regs.scalar)).1, reason := (classify (scalarValue s.regs.scalar)).2
      errcode := 0#4, done := true }
  /-- MULT with a valid scalar (R162). -/
  | multStarted (hcmd : s.nextCmd = some 2#32) (hbusy : s.regs.busy = false) (hfault : s.regs.fault = false)
    (hpos : 1 ≤ scalarValue s.regs.scalar) (hlt : scalarValue s.regs.scalar < groupOrder) :
    StepChange s { s.regs.clearResult with
      valid := true, reason := 0#2, k := BitVec.ofNat 256 (scalarValue s.regs.scalar)
      errcode := 0#4, busy := true, done := false }
  /-- MULT with an invalid scalar: the fault entry (R213). -/
  | multFaulted (hcmd : s.nextCmd = some 2#32) (hbusy : s.regs.busy = false) (hfault : s.regs.fault = false)
    (hinvalid : ¬ (1 ≤ scalarValue s.regs.scalar ∧ scalarValue s.regs.scalar < groupOrder)) :
    StepChange s { s.regs.clearResult with
      valid := false, reason := if scalarValue s.regs.scalar = 0 then 1#2 else 2#2
      fault := true, errcode := 1#4, done := true }
  /-- ZEROIZE (R191). -/
  | zeroized (hcmd : s.nextCmd = some 3#32) (hbusy : s.regs.busy = false) (hfault : s.regs.fault = false) :
    StepChange s { s.regs.wipe with valid := false, reason := 0#2, errcode := 0#4, done := true }

theorem StepChange.of_cmd {s : State} {w : Word} (hcmd : s.nextCmd = some w) :
    StepChange s (s.regs.cmdWrite w) := by
  obtain ⟨hb, h⟩ | ⟨hb, hf, rfl, h⟩ | ⟨hb, hf, -, h⟩ | ⟨hb, hf, rfl, h⟩ | ⟨hb, hf, rfl, h⟩ |
    ⟨hb, hf, rfl, h1, h2, h⟩ | ⟨hb, hf, rfl, hv, h⟩ | ⟨hb, hf, rfl, h⟩ | ⟨hb, hf, -, -, -, -, h⟩ :=
    cmdWrite_cases w s.regs
  all_goals rw [h]
  · exact .dropped hb (.inl (by simp [hcmd]))
  · exact .faultedZeroize hcmd hb hf
  · exact .faultedCmd w hcmd hb hf
  · exact .codeReported _ _ hcmd hb hf (.inl rfl)
  · exact .validated hcmd hb hf
  · exact .multStarted hcmd hb hf h1 h2
  · exact .multFaulted hcmd hb hf hv
  · exact .zeroized hcmd hb hf
  · exact .codeReported _ _ hcmd hb hf (.inr rfl)

theorem StepChange.of_instr {s : State} {i : Instr} (hi : s.nextInstr = some i) :
    StepChange s (effect i s.regs) := by
  obtain ⟨-, -, -, -, h⟩ | ⟨w, hw, h⟩ | ⟨w, rfl, hw, h⟩ | ⟨w, rfl, -, h⟩ | ⟨w, rfl, h⟩ | ⟨n, w, rfl, hb, h⟩ |
    ⟨n, w, rfl, hb, h⟩ := effect_cases i s.regs
  all_goals rw [h]
  · exact .unchanged
  · exact .of_cmd ((nextCmd_eq hi).trans hw)
  · exact .reset ((nextIsReset_of_instr hi).mpr ⟨w, rfl, hw⟩)
  · exact .ctrlWritten w hi
  · exact .statusCleared w hi
  · exact .dropped hb (.inr ⟨n, w, hi⟩)
  · exact .scalarStored n w hb hi

theorem step_change {s t : State} (h : step s = .next t) : StepChange s t.regs := by
  obtain ⟨hregs, -⟩ | ⟨hreset, hregs, -⟩ | ⟨hengine, -, hbusy, hregs, -⟩ | ⟨i, -, hi, hregs, -⟩ := step_cases h
  all_goals rw [hregs]
  · exact .unchanged
  · exact .reset hreset
  · exact .completed hengine hbusy
  · exact .of_instr hi

/-- Only a reset brings the machine to its first reset (R244). -/
theorem step_resetSeen {s t : State} (h : step s = .next t) (ht : t.resetSeen = true) :
    s.resetSeen = true ∨ t.regs = Regs.reset := by
  obtain ⟨-, -, hseen, -⟩ | ⟨-, hregs, -⟩ | ⟨-, hseen, -⟩ | ⟨-, hseen, -⟩ := step_cases h
  · exact .inl (hseen ▸ ht)
  · exact .inr hregs
  · exact .inl hseen
  · exact .inl hseen

end Sys2Proof.Machine

/-! SUPPORT. Proofs of 10_state.md, the invariants: `Regs.Inv` and `Regs.FlagInv` over `StepChange`. -/

namespace Sys2Proof.Machine

theorem reset_inv : Regs.reset.Inv := by decide

theorem reset_flagInv : Regs.reset.FlagInv := by decide

/-- The first byte of a delivered key is 0x02 or 0x03 (R161). -/
theorem multKey_firstByte (k : BitVec 256) : (multKey k)[0] = 0x02#8 ∨ (multKey k)[0] = 0x03#8 := by
  have h : (multKey k)[0] = parityByte (multResult k).2 := by simp [multKey, compress]
  rw [h, parityByte]
  split
  · exact .inl rfl
  · exact .inr rfl

/-- With BUSY 0 the clauses about a running MULT say nothing, so (I4) to (I8) are all of R36. -/
theorem Regs.inv_of_not_busy {r : Regs} (hbusy : r.busy = false) (hk : r.k = 0#256) (h4 : r.I4) (h5 : r.I5)
    (h7 : r.I7) (h8 : r.I8) : r.Inv := by
  have not_busy : ∀ {p : Prop}, r.busy = true → p := fun h => absurd h (by simp [hbusy])
  exact ⟨not_busy, not_busy, not_busy, h4, h5, fun _ => hk, h7, h8⟩

/-- Every change a step can make keeps R36. -/
theorem StepChange.inv {s : State} {r : Regs} (h : StepChange s r) (hs : s.regs.Inv) : r.Inv := by
  obtain ⟨i1, i2, i3, i4, i5, i6, i7, hreason, herr⟩ := id hs
  cases h with
  | unchanged | dropped | scalarStored | ctrlWritten => exact hs
  | reset => exact reset_inv
  | completed _ hbusy =>
    have hfault := i1 hbusy
    exact Regs.inv_of_not_busy rfl rfl nofun (by simp [Regs.I5, hfault]) (fun _ => multKey_firstByte _) ⟨hreason, herr⟩
  | statusCleared w => exact ⟨i1, i2, fun hb => ⟨by simp [i3 hb], (i3 hb).2⟩, i4, i5, i6, i7, hreason, herr⟩
  | faultedZeroize _ hbusy => exact Regs.inv_of_not_busy hbusy rfl (fun _ => ⟨rfl, rfl⟩) i5 nofun ⟨hreason, herr⟩
  | faultedCmd _ _ hbusy => exact Regs.inv_of_not_busy hbusy (i6 hbusy) i4 i5 i7 ⟨hreason, herr⟩
  | codeReported _ e _ hbusy hfault hcode =>
    have hle : e.toNat ≤ 2 := by rcases hcode with rfl | rfl <;> decide
    exact Regs.inv_of_not_busy hbusy (i6 hbusy) i4 (by simp [Regs.I5, hfault]) i7 ⟨hreason, hle⟩
  | validated _ hbusy hfault =>
    exact Regs.inv_of_not_busy hbusy (i6 hbusy) i4 (by simp [Regs.I5, hfault]) i7
      ⟨(classify_reason _).1, Nat.zero_le _⟩
  | multStarted _ _ hfault hpos hlt =>
    have hk := toNat_ofNat_of_lt_groupOrder hlt
    exact ⟨fun _ => hfault, fun _ => rfl, fun _ => ⟨rfl, hk.symm ▸ hpos, hk.symm ▸ Nat.le_sub_one_of_lt hlt⟩,
      fun _ => ⟨rfl, rfl⟩, by simp [Regs.I5, hfault], nofun, nofun, by simp [Regs.I8]⟩
  | multFaulted _ hbusy =>
    exact Regs.inv_of_not_busy hbusy (i6 hbusy) (fun _ => ⟨rfl, rfl⟩) (fun _ => ⟨rfl, rfl⟩) nofun
      ⟨by dsimp only; split <;> decide, by simp⟩
  | zeroized _ hbusy hfault =>
    exact Regs.inv_of_not_busy hbusy rfl (fun _ => ⟨rfl, rfl⟩) (by simp [Regs.I5, hfault]) nofun (by simp [Regs.I8])

/-- The phase of registers that meet R36 is that of their flags; (I1) keeps FAULTED apart from BUSY. -/
theorem Regs.Inv.phase {r : Regs} (h : r.Inv) :
    (phase r = .idle ↔ r.busy = false ∧ r.fault = false) ∧ (phase r = .busy ↔ r.busy = true) ∧
      (phase r = .faulted ↔ r.fault = true) := by
  obtain ⟨i1, -⟩ := h
  cases hb : r.busy
  · cases hf : r.fault <;> simp [Machine.phase, hb, hf]
  · simp [Machine.phase, hb, i1 hb]

theorem step_keeps_inv {s t : State} (hs : s.Inv) (h : step s = .next t) : t.Inv := by
  intro ht
  obtain hseen | hreset := step_resetSeen h ht
  · exact (step_change h).inv (hs hseen)
  · exact hreset ▸ reset_inv

/-- Every change a step can make keeps the further flag relations; the completion needs (I1). -/
theorem StepChange.flagInv {s : State} {r : Regs} (h : StepChange s r) (hs : s.regs.Inv) (hf : s.regs.FlagInv) :
    r.FlagInv := by
  obtain ⟨i1, -⟩ := hs
  obtain ⟨hvalid, hrun, hfaulted, hcode⟩ := id hf
  cases h with
  | unchanged | dropped | scalarStored | ctrlWritten | statusCleared | faultedCmd => exact hf
  | reset => exact reset_flagInv
  | completed _ hbusy =>
    have hfault := i1 hbusy
    exact ⟨hvalid, nofun, by simp [hfault], hcode⟩
  | faultedZeroize => exact ⟨hvalid, hrun, fun h => ⟨rfl, (hfaulted h).2⟩, hcode⟩
  | codeReported _ e _ hbusy hfault he =>
    have hne : e ≠ errInvalidScalar := by rcases he with rfl | rfl <;> decide
    exact ⟨hvalid, by simp [hbusy], by simp [hfault], fun h => absurd h hne⟩
  | validated _ hbusy hfault =>
    exact ⟨(classify_reason _).2.1.mp, by simp [hbusy], by simp [hfault], by simp [errInvalidScalar]⟩
  | multStarted _ _ hfault => exact ⟨fun _ => rfl, fun _ => ⟨rfl, rfl⟩, by simp [hfault], by simp [errInvalidScalar]⟩
  | multFaulted _ hbusy =>
    refine ⟨nofun, by simp [hbusy], fun _ => ⟨rfl, ?_⟩, fun _ => rfl⟩
    dsimp only
    split
    · exact .inl rfl
    · exact .inr rfl
  | zeroized _ hbusy hfault => exact ⟨nofun, by simp [hbusy], by simp [hfault], by simp [errInvalidScalar]⟩

/-- Where FAULT has its mark, every step keeps it so: a rise of FAULT makes the mark. -/
theorem step_keeps_fault_marked {s t : State} (hs : s.regs.fault = true → s.faultMark = true)
    (h : step s = .next t) (ht : t.regs.fault = true) : t.faultMark = true := by
  rw [step_faultMark h, ht]
  cases hf : s.regs.fault
  · simp
  · simp [hs hf]

/-- Settles O46: the reset registers are constants. -/
theorem resetMeetsInvariants : Obligations.ResetMeetsInvariants :=
  ⟨fun _ => ⟨reset_inv, reset_flagInv, nofun⟩, fun _ => reset_inv, rfl⟩

/-- Settles O47: `StepChange.inv` for every step after the first reset, `reset_inv` for that reset. -/
theorem stepKeepsInvariants : Obligations.StepKeepsInvariants := fun _ _ hs h =>
  have ht := step_keeps_inv hs h
  ⟨ht, fun hseen => (ht hseen).phase⟩

/-- Settles O48: `StepChange.flagInv` for every step after the first reset, beside R36 and the fault mark. -/
theorem stepKeepsFlagRelations : Obligations.StepKeepsFlagRelations := by
  intro s t hs h ht
  obtain hseen | hreset := step_resetSeen h ht
  · obtain ⟨hinv, hflag, hmark⟩ := hs hseen
    have hc := step_change h
    exact ⟨hc.inv hinv, hc.flagInv hinv hflag, step_keeps_fault_marked hmark h⟩
  · rw [hreset]
    exact ⟨reset_inv, reset_flagInv, nofun⟩

end Sys2Proof.Machine

/-! SUPPORT. Proofs of 10_state.md, the transitions: for each register which changes of `StepChange` move it. In each
proof the cases named are those that move it, and every other change leaves it or contradicts the premise. -/

namespace Sys2Proof.Machine

section Causes
variable {s : State} {r : Regs}

theorem StepChange.busy_rises (h : StepChange s r) (h0 : s.regs.busy = false) (h1 : r.busy = true) :
    s.nextCmd = some 2#32 ∧ s.regs.fault = false ∧
      1 ≤ scalarValue s.regs.scalar ∧ scalarValue s.regs.scalar < groupOrder := by
  cases h with
  | multStarted hcmd _ hfault hpos hlt => exact ⟨hcmd, hfault, hpos, hlt⟩
  | _ => simp_all [Regs.reset]

theorem StepChange.busy_falls (h : StepChange s r) (h1 : s.regs.busy = true) (h0 : r.busy = false) :
    s.nextIsReset = true ∨ (s.nextIsEngine = true ∧ r.done = true ∧ r.outValid = true) := by
  cases h with
  | reset hreset => exact .inl hreset
  | completed hengine => exact .inr ⟨hengine, rfl, rfl⟩
  | _ => simp_all

theorem StepChange.done_changed (h : StepChange s r) (hne : r.done ≠ s.regs.done) :
    (s.nextIsEngine = true ∧ s.regs.busy = true) ∨ (s.nextCmd ≠ none ∧ s.regs.busy = false) ∨
      s.nextIsReset = true ∨ ∃ w : Word, s.nextInstr = some (.wrStatus w) ∧ w[1] = true := by
  cases h with
  | reset hreset => exact .inr (.inr (.inl hreset))
  | completed hengine hbusy => exact .inl ⟨hengine, hbusy⟩
  | statusCleared w hinstr => exact .inr (.inr (.inr ⟨w, hinstr, by simp_all⟩))
  | _ => simp_all

theorem StepChange.valid_or_reason_changed (h : StepChange s r)
    (hne : r.valid ≠ s.regs.valid ∨ r.reason ≠ s.regs.reason) :
    s.nextIsReset = true ∨ (s.regs.busy = false ∧ s.regs.fault = false ∧
      (s.nextCmd = some 1#32 ∨ s.nextCmd = some 2#32 ∨ s.nextCmd = some 3#32)) := by
  cases h with
  | reset hreset => exact .inl hreset
  | validated hcmd hbusy hfault => exact .inr ⟨hbusy, hfault, .inl hcmd⟩
  | multStarted hcmd hbusy hfault => exact .inr ⟨hbusy, hfault, .inr (.inl hcmd)⟩
  | multFaulted hcmd hbusy hfault => exact .inr ⟨hbusy, hfault, .inr (.inl hcmd)⟩
  | zeroized hcmd hbusy hfault => exact .inr ⟨hbusy, hfault, .inr (.inr hcmd)⟩
  | _ => simp at hne

theorem StepChange.outValid_rises (h : StepChange s r) (h0 : s.regs.outValid = false) (h1 : r.outValid = true) :
    s.nextIsEngine = true ∧ s.regs.busy = true := by
  cases h with
  | completed hengine hbusy => exact ⟨hengine, hbusy⟩
  | _ => simp_all [Regs.reset]

/-- PUBKEY and OUT_VALID: delivered together, cleared together, or left alone (R26). -/
theorem StepChange.result_cases (h : StepChange s r) :
    (s.nextIsEngine = true ∧ s.regs.busy = true ∧ r.outValid = true) ∨
    ((s.nextIsReset = true ∨ (s.regs.busy = false ∧ (s.nextCmd = some 2#32 ∨ s.nextCmd = some 3#32))) ∧
      r.outValid = false ∧ r.pubkeyZero) ∨
    (r.outValid = s.regs.outValid ∧ r.pubkeyPrefix = s.regs.pubkeyPrefix ∧ r.pubkeyX = s.regs.pubkeyX) := by
  cases h with
  | reset hreset => exact .inr (.inl ⟨.inl hreset, rfl, rfl, rfl⟩)
  | completed hengine hbusy => exact .inl ⟨hengine, hbusy, rfl⟩
  | faultedZeroize hcmd hbusy => exact .inr (.inl ⟨.inr ⟨hbusy, .inr hcmd⟩, rfl, rfl, rfl⟩)
  | multStarted hcmd hbusy => exact .inr (.inl ⟨.inr ⟨hbusy, .inl hcmd⟩, rfl, rfl, rfl⟩)
  | multFaulted hcmd hbusy => exact .inr (.inl ⟨.inr ⟨hbusy, .inl hcmd⟩, rfl, rfl, rfl⟩)
  | zeroized hcmd hbusy => exact .inr (.inl ⟨.inr ⟨hbusy, .inr hcmd⟩, rfl, rfl, rfl⟩)
  | _ => exact .inr (.inr ⟨rfl, rfl, rfl⟩)

theorem StepChange.fault_rises (h : StepChange s r) (h0 : s.regs.fault = false) (h1 : r.fault = true) :
    s.nextCmd = some 2#32 ∧ s.regs.busy = false ∧
      ¬ (1 ≤ scalarValue s.regs.scalar ∧ scalarValue s.regs.scalar < groupOrder) := by
  cases h with
  | multFaulted hcmd hbusy _ hinvalid => exact ⟨hcmd, hbusy, hinvalid⟩
  | _ => simp_all [Regs.reset]

theorem StepChange.fault_falls (h : StepChange s r) (h1 : s.regs.fault = true) (h0 : r.fault = false) :
    s.nextIsReset = true := by
  cases h with
  | reset hreset => exact hreset
  | _ => simp_all

theorem StepChange.drop_rises (h : StepChange s r) (h0 : s.regs.drop = false) (h1 : r.drop = true) :
    s.regs.busy = true ∧ s.nextIsGuarded := by
  cases h with
  | dropped hbusy hwrite => exact ⟨hbusy, hwrite⟩
  | _ => simp_all [Regs.reset]

theorem StepChange.drop_falls (h : StepChange s r) (h1 : s.regs.drop = true) (h0 : r.drop = false) :
    s.nextIsReset = true ∨ ∃ w : Word, s.nextInstr = some (.wrStatus w) ∧ w[5] = true := by
  cases h with
  | reset hreset => exact .inl hreset
  | statusCleared w hinstr => exact .inr ⟨w, hinstr, by simp_all⟩
  | _ => simp_all

theorem StepChange.scalar_changed (h : StepChange s r) (hno : s.nextIsReset = false)
    (hne : r.scalar ≠ s.regs.scalar) : s.regs.busy = false ∧
      ((∃ i w, s.nextInstr = some (.wrScalar i w)) ∨ s.nextCmd = some 3#32) := by
  cases h with
  | scalarStored i w hbusy hinstr => exact ⟨hbusy, .inl ⟨i, w, hinstr⟩⟩
  | faultedZeroize hcmd hbusy => exact ⟨hbusy, .inr hcmd⟩
  | zeroized hcmd hbusy => exact ⟨hbusy, .inr hcmd⟩
  | _ => simp_all

theorem StepChange.k_changed (h : StepChange s r) (hno : s.nextIsReset = false) (hne : r.k ≠ s.regs.k) :
    (s.nextIsEngine = true ∧ s.regs.busy = true) ∨
      (s.regs.busy = false ∧ (s.nextCmd = some 2#32 ∨ s.nextCmd = some 3#32)) := by
  cases h with
  | completed hengine hbusy => exact .inl ⟨hengine, hbusy⟩
  | faultedZeroize hcmd hbusy => exact .inr ⟨hbusy, .inr hcmd⟩
  | multStarted hcmd hbusy => exact .inr ⟨hbusy, .inl hcmd⟩
  | zeroized hcmd hbusy => exact .inr ⟨hbusy, .inr hcmd⟩
  | _ => simp_all

theorem StepChange.irqEn_changed (h : StepChange s r) (hno : s.nextIsReset = false) (hne : r.irqEn ≠ s.regs.irqEn) :
    ∃ w, s.nextInstr = some (.wrCtrl w) := by
  cases h with
  | ctrlWritten w hinstr => exact ⟨w, hinstr⟩
  | _ => simp_all

/-- While BUSY only a reset and the Engine reach a register other than IRQ_EN, DONE and DROP (R216). -/
theorem StepChange.undisturbed (h : StepChange s r) (hbusy : s.regs.busy = true) (hreset : s.nextIsReset = false)
    (hengine : s.nextIsEngine = false) :
    ∃ irqEn done drop : Bool, r = { s.regs with irqEn := irqEn, done := done, drop := drop } := by
  cases h with
  | unchanged | dropped | ctrlWritten | statusCleared => exact ⟨_, _, _, rfl⟩
  | _ => simp_all

end Causes

/-- Settles O28: each change of `StepChange` while BUSY is a reset, the completion, or one that spares the MULT. -/
theorem runningMultIsUndisturbed : Obligations.RunningMultIsUndisturbed := fun _ _ hbusy hreset hengine h =>
  (step_change h).undisturbed hbusy hreset hengine

/-- Settles O49: the start and the end of a MULT move BUSY, and `step_regs_of_dropped` is the frame of a drop. -/
theorem busyTransitions : Obligations.BusyTransitions := fun _ _ h =>
  ⟨(step_change h).busy_rises, (step_change h).busy_falls, step_regs_of_dropped h⟩

/-- Settles O50: the clauses with a cause follow from what that step does, the last from `StepChange.done_changed`. -/
theorem doneTransitions : Obligations.DoneTransitions := by
  intro s t h
  refine ⟨fun hcmd hbusy => ?_, fun hseen hengine hbusy => ?_, ?_, fun hbusy hwrite => ?_,
    (step_change h).done_changed⟩
  · obtain ⟨w, hw⟩ := Option.ne_none_iff_exists'.mp hcmd
    simp [step_regs_of_cmd h hw, hw, cmdWrite_done w hbusy]
  · simp [step_regs_of_engine h hseen hengine hbusy]
  · rintro (hreset | ⟨w, hi, hw⟩)
    · simp [step_regs_of_reset h hreset, Regs.reset]
    · simp [step_regs_of_instr h hi, effect, hw]
  · simp [step_regs_of_dropped h hbusy hwrite]

/-- Settles O51: VALID and REASON are `classify` of the scalar, and `classify_reason` relates the two. -/
theorem validAndReasonTransitions : Obligations.ValidAndReasonTransitions := by
  intro s t h
  refine ⟨?_, ?_, (step_change h).valid_or_reason_changed⟩
  · rintro ⟨hbusy, hfault, hcmd⟩
    obtain ⟨w, hw, hnext⟩ : ∃ w, (w = 1#32 ∨ w = 2#32) ∧ s.nextCmd = some w := by
      rcases hcmd with hcmd | hcmd
      · exact ⟨_, .inl rfl, hcmd⟩
      · exact ⟨_, .inr rfl, hcmd⟩
    obtain ⟨hvalid, hreason⟩ := cmdWrite_classifies hbusy hfault hw
    rw [step_regs_of_cmd h hnext, hvalid, hreason]
    exact ⟨by rw [classify_eq], (classify_reason _).2.1⟩
  · rintro (⟨hbusy, hfault, hcmd⟩ | hreset)
    · rw [step_regs_of_cmd h hcmd, cmdWrite_accepted _ hbusy hfault]
      exact ⟨rfl, rfl⟩
    · rw [step_regs_of_reset h hreset]
      exact ⟨rfl, rfl⟩

/-- Settles O52: the result is delivered, cleared or left as one (`StepChange.result_cases`). -/
theorem outValidTransitions : Obligations.OutValidTransitions := by
  intro s t h
  have hresult := (step_change h).result_cases
  refine ⟨(step_change h).outValid_rises, ?_, fun h1 h0 => ?_, fun h4 h0 => ?_⟩
  · rintro (⟨hbusy, hfault, hcmd⟩ | ⟨hbusy, hcmd⟩ | hreset)
    · rw [step_regs_of_cmd h hcmd]
      exact cmdWrite_clears_result hbusy (.inl ⟨hfault, rfl⟩)
    · rw [step_regs_of_cmd h hcmd]
      exact cmdWrite_clears_result hbusy (.inr rfl)
    · rw [step_regs_of_reset h hreset]
      exact ⟨rfl, rfl, rfl⟩
  · obtain ⟨-, -, hset⟩ | ⟨-, -, hzero⟩ | ⟨hkept, -⟩ := hresult
    · simp [h0] at hset
    · exact hzero
    · simp [h0, h1] at hkept
  · obtain ⟨-, -, hset⟩ | ⟨-, -, hzero⟩ | ⟨hkept, hfirst, hx⟩ := hresult
    · simp [h0] at hset
    · exact hzero
    · exact ⟨hfirst ▸ (h4 (hkept ▸ h0)).1, hx ▸ (h4 (hkept ▸ h0)).2⟩

/-- Settles O53: the rise is the fault entry of MULT, the fall a reset. -/
theorem faultTransitions : Obligations.FaultTransitions := by
  intro s t h
  refine ⟨fun hfault => ⟨(step_change h).fault_rises hfault, ?_⟩,
    fun hfault => ⟨(step_change h).fault_falls hfault, fun hreset => ?_⟩⟩
  · rintro ⟨hcmd, hbusy, hinvalid⟩
    rw [step_regs_of_cmd h hcmd, cmdWrite_mult_invalid hbusy hfault hinvalid]
  · rw [step_regs_of_reset h hreset]
    rfl

/-- Settles O55: the causes give DROP by what that step does, and a change of DROP gives back its cause. -/
theorem dropTransitions : Obligations.DropTransitions := by
  intro s t h
  refine ⟨fun ⟨hbusy, hwrite⟩ => ?_, ?_, (step_change h).drop_rises, (step_change h).drop_falls⟩
  · simp [step_regs_of_dropped h hbusy hwrite]
  · rintro (hreset | ⟨w, hi, hw⟩)
    · simp [step_regs_of_reset h hreset, Regs.reset]
    · simp [step_regs_of_instr h hi, effect, hw]

/-- Settles O56: PUBKEY by `StepChange.result_cases`, the other three each by its own lemma. -/
theorem dataRegisterWriters : Obligations.DataRegisterWriters := by
  intro s t h hno
  have hc := step_change h
  refine ⟨hc.scalar_changed hno, fun hne => ?_, hc.k_changed hno, hc.irqEn_changed hno⟩
  obtain ⟨hengine, hbusy, -⟩ | ⟨hreset | hcmd, -⟩ | ⟨-, hfirst, hx⟩ := hc.result_cases
  · exact .inl ⟨hengine, hbusy⟩
  · simp [hno] at hreset
  · exact .inr hcmd
  · simp [hfirst, hx] at hne

/-! ### The interrupt output and the secrets -/

theorem irq_eq_true (r : Regs) : irq r = true ↔ r.irqEn = true ∧ r.done = true := by simp [irq]

/-- Settles O58: what each write does is `exec_eq`, and its registers are `effect`. -/
theorem irqIsEnabledDone : Obligations.IrqIsEnabledDone := by
  refine ⟨irq_eq_true, rfl, fun s hdone => ⟨_, exec_eq _ s, ?_⟩, fun s => ⟨_, exec_eq _ s, ?_⟩,
    fun s => ⟨_, exec_eq _ s, ?_⟩⟩
  · simp [effect, irq, hdone]
  · simp [effect, irq]
  · simp [effect, irq]

/-- No answer reads SCALAR or K: the SCALAR rows read 0 and no row reads K (R113, R35). -/
theorem answer_eq_of_sameButSecrets (i : Instr) {a b : Regs} (h : a.sameButSecrets b) : answer i a = answer i b := by
  rw [← show { a with scalar := b.scalar, k := b.k } = b from h]
  cases i <;> rfl

/-- Settles O59: every instruction completes with `answer`, which is blind to both secrets. -/
theorem secretsAreNotReadable : Obligations.SecretsAreNotReadable := by
  intro i s u h
  exact ⟨_, _, exec_eq i s, exec_eq i u, by simp [answer_eq_of_sameButSecrets i h]⟩

end Sys2Proof.Machine

/-! SUPPORT. Proofs of 20_memory.md: reads without side effects, the packings of R53 and R54, the window of R50. -/

namespace Sys2Proof.Machine

/-! ### Reads -/

theorem effect_of_isRead {i : Instr} (h : i.isRead = true) (r : Regs) : effect i r = r := by
  cases i <;> cases h <;> rfl

/-- A read instruction leaves its answer on the bus and nothing else (R59). -/
theorem exec_of_isRead {i : Instr} (h : i.isRead = true) (s : State) :
    exec i s = .next (s.respond (answer i s.regs).resp (answer i s.regs).rdata) := by
  rw [exec_eq, effect_of_isRead h, State.commit_self]

/-- Whatever control register an index names, the direction chooses its row. -/
theorem isRead_of_decodeControl {write : Bool} {index : Nat} {w : Word} {i : Instr}
    (h : decodeControl write index w = .ok i) : i.isRead = !write := by
  unfold decodeControl at h
  cases write <;> split at h <;> cases h <;> rfl

/-- Whatever row a selector decodes to, its direction is field `W` (R72). -/
theorem isRead_of_decodeSelector {sel : BitVec 9} {w : Word} {i : Instr} (h : decodeSelector sel w = .ok i) :
    i.isRead = !selWrite sel := by
  simp only [decodeSelector] at h
  split at h
  · cases h
  · split at h
    · exact isRead_of_decodeControl h
    · cases h; cases selWrite sel <;> rfl
    · cases h; cases selWrite sel <;> rfl
    · cases h

theorem selWrite_selector (t : Transaction) : selWrite t.selector = t.write := by
  rw [selWrite, Transaction.selector, BitVec.getElem_append]
  simp

/-- Only read instructions carry out read transactions. -/
theorem isRead_of_decode_read {t : Transaction} {i : Instr} (hread : t.write = false) (h : decode (.bus t) = .ok i) :
    i.isRead = true := by
  simp only [decode, decodeTransaction] at h
  split at h
  · cases h
  · rw [isRead_of_decodeSelector h, selWrite_selector, hread, Bool.not_false]

/-- The response to a read transaction: a function of the transaction and the registers alone. -/
def readResponse (t : Transaction) (r : Regs) : Response :=
  match decode (.bus t) with
  | .ok i => answer i r
  | .error _ => ⟨.err, 0#32⟩

/-- A read transaction at any offset leaves `readResponse` on the bus and nothing else. -/
theorem step_read {s : State} {t : Transaction} {rest : List Event} (hr : s.resetSeen = true)
    (hread : t.write = false) (h : s.agenda = .host (.bus t) :: rest) :
    step s = .next ((s.withAgenda rest).respond (readResponse t s.regs).resp (readResponse t s.regs).rdata) := by
  cases hd : decode (.bus t) with
  | ok i =>
    rw [step_host_ok hr h hd, exec_of_isRead (isRead_of_decode_read hread hd)]
    simp [readResponse, hd]
  | error e =>
    rw [step_host_error hr h hd]
    simp [readResponse, hd, busError]

/-- Settles O13: a read changes the response alone, and the response depends on the registers alone. -/
theorem readsHaveNoSideEffects : Obligations.ReadsHaveNoSideEffects := by
  refine ⟨fun i s hi => ⟨_, exec_of_isRead hi s, rfl, rfl, rfl, exec_of_isRead hi _⟩, ?_⟩
  intro s t rest hr hread h
  exact ⟨_, _, step_read hr hread h, step_read hr hread rfl, rfl, rfl, rfl⟩

/-! ### Packing -/

theorem packScalar_get (b : Vector Byte 32) (i : Fin 8) : (packScalar b)[i] =
    wordOfBytes b[4 * i.val] b[4 * i.val + 1] b[4 * i.val + 2] b[4 * i.val + 3] := by
  simp [packScalar]

/-- Settles O15: both sides are the sum of the 32 bytes by their place values. -/
theorem scalarPackingKeepsTheBytes : Obligations.ScalarPackingKeepsTheBytes := by
  intro b
  refine ⟨?_, fun i => by rw [packScalar_get, wordOfBytes_toNat]⟩
  simp only [scalarValue, packScalar, Vector.getElem_ofFn, wordOfBytes_toNat, beInt_32, Finset.sum_range_succ,
    Finset.sum_range_zero, Nat.reduceMul, Nat.reduceAdd, Nat.reduceLT, getElem?_pos, Option.getD_some]
  ring

/-- The last 32 of the 33 bytes of a compressed key. -/
def keyTail (key : Vector Byte 33) : Vector Byte 32 := Vector.ofFn fun i => key[i.val + 1]

theorem keyTail_compress (x y : Nat) : keyTail (compress x y) = beBytes 32 x := by
  ext i hi
  simp [keyTail, compress]

/-- The X words of R54 are the last 32 bytes packed as a scalar is by R53. -/
theorem packX_eq_packScalar (key : Vector Byte 33) : packX key = packScalar (keyTail key) := by
  ext1 i hi
  simp only [packX, packScalar, keyTail, Vector.getElem_ofFn]
  simp only [Nat.add_comm _ (4 * i)]

/-- A host emits the four bytes of a word in the order they were packed. -/
theorem wordByte_wordOfBytes (a b c d : Byte) (j : Fin 4) : wordByte (wordOfBytes a b c d) j = #v[a, b, c, d][j] := by
  have hbyte (k : Nat) : ((wordOfBytes a b c d).extractLsb' k 8).toNat =
      (a.toNat * 2 ^ 24 + b.toNat * 2 ^ 16 + c.toNat * 2 ^ 8 + d.toNat) / 2 ^ k % 2 ^ 8 := by
    rw [BitVec.extractLsb'_toNat, wordOfBytes_toNat, Nat.shiftRight_eq_div_pow]
  apply BitVec.eq_of_toNat_eq
  rw [wordByte, hbyte]
  fin_cases j <;> simp <;> omega

theorem packX_get (key : Vector Byte 33) (i : Fin 8) : (packX key)[i] =
    wordOfBytes key[1 + 4 * i.val] key[2 + 4 * i.val] key[3 + 4 * i.val] key[4 + 4 * i.val] := by
  simp [packX]

/-- Byte `j` of X word `i` is byte `1 + 4i + j` of the key. -/
theorem wordByte_packX (key : Vector Byte 33) (i : Fin 8) (j : Fin 4) :
    wordByte (packX key)[i] j = key[1 + 4 * i.val + j.val] := by
  rw [packX_get, wordByte_wordOfBytes]
  simp only [Nat.add_comm _ (4 * i.val)]
  fin_cases j <;> rfl

/-- A host's reading of PUBKEY gives back the 33 bytes, whatever they are (R54). -/
theorem emitKey_packX (key : Vector Byte 33) : emitKey key[0] (packX key) = key := by
  ext1 n hn
  cases n with
  | zero => simp [emitKey]
  | succ m =>
    have hpos : 1 + 4 * (m / 4) + m % 4 = m + 1 := by omega
    simpa [emitKey, hpos] using wordByte_packX key ⟨m / 4, by omega⟩ ⟨m % 4, by omega⟩

theorem compress_firstByte (x y : Nat) : (compress x y)[0] = parityByte y := by
  simp [compress]

/-- Settles O26: the tail of the key is `be_bytes_32(x)`, and the X words pack it as R53 packs a scalar. -/
theorem compressedKeyIsRebuilt : Obligations.CompressedKeyIsRebuilt := by
  intro x y hx
  have hvalue : beInt (keyTail (compress x y)) = x := by rw [keyTail_compress, beInt_beBytes _ _ (by omega)]
  refine ⟨compress_firstByte x y, hvalue, fun i => ?_, emitKey_packX _, ?_⟩
  · rw [packX_get, wordOfBytes_toNat]
  · rw [packX_eq_packScalar, (scalarPackingKeepsTheBytes _).1, hvalue]

/-! ### The window and the register names -/

theorem baseAddr_aligned : Config.baseAddr % 256 = 0 := Nat.mul_mod_right _ _

theorem windowOffset_inside (off : BitVec 8) : windowOffset (Config.baseAddr + off.toNat) = some off := by
  have hoff := off.isLt
  rw [windowOffset, if_pos ⟨by omega, by simp only [Config.windowSize]; omega⟩]
  simp

theorem windowOffset_outside {a : Nat} (h : a < Config.baseAddr ∨ Config.baseAddr + 0xFF < a) :
    windowOffset a = none := by
  rw [windowOffset, if_neg]
  simp only [Config.windowSize]
  omega

/-- The array registers' offsets are the selectors of their rows (R50, R72). -/
theorem selector_array_off (i : Fin 8) :
    0#1 ++ RegName.off (.scalar i) = arraySelector 0x020#9 i ∧ 1#1 ++ RegName.off (.scalar i) = arraySelector 0x120#9 i ∧
    0#1 ++ RegName.off (.pubkeyX i) = arraySelector 0x040#9 i ∧
    1#1 ++ RegName.off (.pubkeyX i) = arraySelector 0x140#9 i := by
  revert i
  decide

/-- Settles O45: the window by arithmetic on BASE_ADDR, the control names by evaluation, the arrays by their rows. -/
theorem windowAndRegisterNames : Obligations.WindowAndRegisterNames := by
  refine ⟨baseAddr_aligned, windowOffset_inside, fun _ => windowOffset_outside, fun w => ?_⟩
  simp only [decode_memRead, decode_memWrite]
  refine ⟨rfl, rfl, rfl, rfl, rfl, rfl, rfl, rfl, rfl, rfl, fun i => ?_⟩
  obtain ⟨selReadScalar, selWriteScalar, selReadX, selWriteX⟩ := selector_array_off i
  obtain ⟨readScalar, -, readX, -⟩ := decodeSelector_array i 0#32
  obtain ⟨-, writeScalar, -, writeX⟩ := decodeSelector_array i w
  rw [selReadScalar, selWriteScalar, selReadX, selWriteX]
  exact ⟨readScalar, writeScalar, readX, writeX⟩

end Sys2Proof.Machine

/-! SUPPORT. Proofs of 30_encoding.md: the fields of a selector (R72), the checks of R78 in their order, the rows of the
opcode table and the round trip of encoder and decoder (R70, R71), and the command words of R74 and R75. -/

namespace Sys2Proof.Machine

/-! ### The fields of a selector as numbers -/

/-- The layout of R72: W, group, index and align, from bit 8 down. -/
theorem selector_eq_fields (sel : BitVec 9) : sel.toNat =
    256 * (selWrite sel).toNat + 32 * (selGroup sel).toNat + 4 * (selIndex sel).val + (selAlign sel).toNat := by
  have hlt := sel.isLt
  have hwrite : (selWrite sel).toNat = sel.toNat / 256 % 2 := Nat.toNat_testBit sel.toNat 8
  have hgroup : (selGroup sel).toNat = sel.toNat / 32 % 8 := by simp [selGroup, Nat.shiftRight_eq_div_pow]
  have hindex : (selIndex sel).val = sel.toNat / 4 % 8 := by simp [selIndex, Nat.shiftRight_eq_div_pow]
  have halign : (selAlign sel).toNat = sel.toNat % 4 := by simp [selAlign]
  omega

/-- The selector of R71 as a number, `W<<8 | off`. -/
theorem selector_toNat (t : Transaction) : t.selector.toNat = 256 * t.write.toNat + t.off.toNat := by
  have happend : t.selector.toNat = (BitVec.ofBool t.write).toNat <<< 8 ||| t.off.toNat := BitVec.toNat_append _ _
  rw [happend, ← Nat.shiftLeft_add_eq_or_of_lt t.off.isLt, Nat.shiftLeft_eq, BitVec.toNat_ofBool]
  omega

/-- Group, index and alignment of a transaction, cut from its offset. -/
theorem selector_fields (t : Transaction) :
    (selGroup t.selector).toNat = t.off.toNat / 32 ∧ (selIndex t.selector).val = t.off.toNat / 4 % 8 ∧
      (selAlign t.selector).toNat = t.off.toNat % 4 := by
  have hsel := selector_eq_fields t.selector
  rw [selector_toNat, selWrite_selector] at hsel
  have halign := (selAlign t.selector).isLt
  have hindex := (selIndex t.selector).isLt
  omega

/-! ### The checks in their order (R78) -/

theorem widthAndStrobes_eq_false (t : Transaction) :
    (t.widthOk && t.strobesOk) = false ↔ t.size ≠ 4 ∨ (t.write = true ∧ t.strb ≠ 0b1111#4) := by
  have hstrb : t.strb = 0b1111#4 ↔ t.strb.toNat = 15 := BitVec.toNat_inj.symm
  rw [ne_eq t.strb, hstrb, ne_eq, ← imp_iff_not_or]
  simp [Transaction.widthOk, Transaction.strobesOk]

/-- Group and index name a register: a control register of index 0 to 4, or one of the two arrays (R50, R72). -/
abbrev NamesRegister (group index : Nat) : Prop := group = 0 ∧ index < 5 ∨ group = 1 ∨ group = 2

theorem aligned_iff (t : Transaction) : t.aligned = true ↔ selAlign t.selector = 0#2 := by
  obtain ⟨-, -, halign⟩ := selector_fields t
  simp [Transaction.aligned, ← BitVec.toNat_inj, halign]

/-- The ranges of the window map, by group and index. -/
theorem mapped_iff (t : Transaction) :
    t.mapped = true ↔ NamesRegister (selGroup t.selector).toNat (selIndex t.selector).val := by
  obtain ⟨hgroup, hindex, -⟩ := selector_fields t
  rw [hgroup, hindex]
  simp only [Transaction.mapped, mappedRanges, List.any_cons, List.any_nil, Bool.or_eq_true, Bool.and_eq_true,
    decide_eq_true_eq, Bool.false_eq_true, or_false]
  omega

/-- Of the control indices, 0 to 4 name a register (R72). -/
theorem decodeControl_cases (write : Bool) (index : Nat) (w : Word) :
    (index < 5 ∧ ∃ i, decodeControl write index w = .ok i) ∨
      (5 ≤ index ∧ decodeControl write index w = .error .unmapped) := by
  match index with
  | 0 | 1 | 2 | 3 | 4 => exact .inl ⟨by decide, _, rfl⟩
  | n + 5 => exact .inr ⟨Nat.le_add_left 5 n, rfl⟩

/-- An aligned selector decodes to a row exactly when its fields name a register. -/
theorem decodeSelector_aligned {sel : BitVec 9} (w : Word) (halign : selAlign sel = 0#2) :
    (NamesRegister (selGroup sel).toNat (selIndex sel).val ∧ ∃ i, decodeSelector sel w = .ok i) ∨
      (¬ NamesRegister (selGroup sel).toNat (selIndex sel).val ∧ decodeSelector sel w = .error .unmapped) := by
  rw [decodeSelector, if_neg (not_not_intro halign)]
  split
  case h_1 hgroup =>
    obtain ⟨hindex, hok⟩ | ⟨hindex, herror⟩ := decodeControl_cases (selWrite sel) (selIndex sel).val w
    · exact .inl ⟨.inl ⟨hgroup, hindex⟩, hok⟩
    · exact .inr ⟨by omega, herror⟩
  case h_2 hgroup => exact .inl ⟨.inr (.inl hgroup), _, rfl⟩
  case h_3 hgroup => exact .inl ⟨.inr (.inr hgroup), _, rfl⟩
  case h_4 h0 h1 h2 => exact .inr ⟨by tauto, rfl⟩

/-- The checks of R78: the first that fails is the answer, and a transaction that passes them all is some row. -/
theorem decode_bus_cases (t : Transaction) :
    ((t.widthOk && t.strobesOk) = false ∧ decode (.bus t) = .error .accessWidth) ∨
    ((t.widthOk && t.strobesOk) = true ∧ t.aligned = false ∧ decode (.bus t) = .error .misaligned) ∨
    ((t.widthOk && t.strobesOk) = true ∧ t.aligned = true ∧ t.mapped = false ∧
      decode (.bus t) = .error .unmapped) ∨
    ((t.widthOk && t.strobesOk) = true ∧ t.aligned = true ∧ t.mapped = true ∧ ∃ i, decode (.bus t) = .ok i) := by
  have hwidth := widthAndStrobes_eq_false t
  cases hw : t.widthOk && t.strobesOk
  case false => exact .inl ⟨rfl, if_pos (hwidth.mp hw)⟩
  have hdecode : decode (.bus t) = decodeSelector t.selector t.wdata :=
    if_neg fun hbad => Bool.noConfusion (hw.symm.trans (hwidth.mpr hbad))
  rw [hdecode]
  by_cases ha : t.aligned = true
  · obtain ⟨hnames, hok⟩ | ⟨hnames, herror⟩ := decodeSelector_aligned t.wdata ((aligned_iff t).mp ha)
    · exact .inr (.inr (.inr ⟨rfl, ha, (mapped_iff t).mpr hnames, hok⟩))
    · exact .inr (.inr (.inl ⟨rfl, ha, by simpa [← mapped_iff] using hnames, herror⟩))
  · exact .inr (.inl ⟨rfl, by simpa using ha, if_pos fun halign => ha ((aligned_iff t).mpr halign)⟩)

/-- Settles O42: exactly one of the four outcomes of the checks holds. -/
theorem decodeChecksInOrder : Obligations.DecodeChecksInOrder := by
  intro t
  obtain ⟨hw, hd⟩ | ⟨hw, ha, hd⟩ | ⟨hw, ha, hm, hd⟩ | ⟨hw, ha, hm, i, hd⟩ := decode_bus_cases t <;>
    simp [Transaction.wellFormed, *]

/-- What decodes is well formed (R78). -/
theorem wellFormed_of_decode {op : HostOp} {i : Instr} (h : decode op = .ok i) : op.wellFormed = true := by
  cases op with
  | bus t => exact (decodeChecksInOrder t).1.mpr ⟨i, h⟩
  | cmd w => rfl

/-! ### The round trip -/

/-- The decoder undoes the encoder on every instruction and operand (R70 to R75). -/
theorem decode_encode (i : Instr) : decode (encode i) = .ok i := by
  cases i with
  | nop | validate | mult | zeroize => rfl
  | rdScalar | wrScalar | rdPubkeyX | wrPubkeyX => simp [encode, decode_transactionOf, decodeSelector_array]
  | _ => exact decode_transactionOf _ _

/-- Settles O40: the encoding decodes to its instruction, and what decodes is well formed. -/
theorem decodeEncode : Obligations.DecodeEncode := fun i => ⟨decode_encode i, wellFormed_of_decode (decode_encode i)⟩

/-! ### Selectors and the rows of the opcode table (R71, R72) -/

/-- An aligned selector from its other fields. -/
theorem aligned_selector_eq {sel : BitVec 9} (halign : selAlign sel = 0#2) :
    BitVec.ofNat 9 (256 * (selWrite sel).toNat + 32 * (selGroup sel).toNat + 4 * (selIndex sel).val) = sel := by
  have hsel := selector_eq_fields sel
  rw [halign] at hsel
  exact BitVec.eq_of_toNat_eq (by rw [← hsel.trans (Nat.add_zero _), BitVec.ofNat_toNat, BitVec.setWidth_eq])

/-- A control register's encoding has the selector of its direction and index. -/
theorem encode_of_decodeControl {write : Bool} {index : Nat} {w : Word} {i : Instr}
    (h : decodeControl write index w = .ok i) :
    ∃ v, encode i = .bus (transactionOf (BitVec.ofNat 9 (256 * write.toNat + 4 * index)) v) := by
  unfold decodeControl at h
  split at h <;> cases h <;> cases write <;> exact ⟨_, rfl⟩

/-- The selectors of the array rows from direction, group and index. -/
theorem arraySelector_eq (i : Fin 8) :
    arraySelector 0x020#9 i = BitVec.ofNat 9 (32 * 1 + 4 * i.val) ∧
    arraySelector 0x120#9 i = BitVec.ofNat 9 (256 + 32 * 1 + 4 * i.val) ∧
    arraySelector 0x040#9 i = BitVec.ofNat 9 (32 * 2 + 4 * i.val) ∧
    arraySelector 0x140#9 i = BitVec.ofNat 9 (256 + 32 * 2 + 4 * i.val) := by
  revert i
  decide

/-- The encodings of the array rows have the selectors of their direction, group and index. -/
theorem encode_array (write : Bool) (i : Fin 8) (w : Word) :
    encode (if write then .wrScalar i w else .rdScalar i) =
      .bus (transactionOf (BitVec.ofNat 9 (256 * write.toNat + 32 * 1 + 4 * i.val)) (if write then w else 0#32)) ∧
    encode (if write then .wrPubkeyX i w else .rdPubkeyX i) =
      .bus (transactionOf (BitVec.ofNat 9 (256 * write.toNat + 32 * 2 + 4 * i.val)) (if write then w else 0#32)) := by
  cases write <;> simp [encode, arraySelector_eq i]

/-- The encoder undoes the decoder on selectors: no two selectors decode to one instruction. -/
theorem encode_of_decodeSelector {sel : BitVec 9} {w : Word} {i : Instr} (h : decodeSelector sel w = .ok i) :
    ∃ v, encode i = .bus (transactionOf sel v) := by
  simp only [decodeSelector] at h
  split at h
  case isTrue => cases h
  case isFalse halign =>
    have hsel := aligned_selector_eq (not_not.mp halign)
    obtain ⟨hscalar, hpubkeyX⟩ := encode_array (selWrite sel) (selIndex sel) w
    split at h
    case h_1 hgroup =>
      rw [hgroup] at hsel
      exact hsel ▸ encode_of_decodeControl h
    case h_2 hgroup =>
      cases h
      rw [hgroup] at hsel
      exact ⟨_, by rw [hscalar, hsel]⟩
    case h_3 hgroup =>
      cases h
      rw [hgroup] at hsel
      exact ⟨_, by rw [hpubkeyX, hsel]⟩
    case h_4 => cases h

/-- Every row's `match` is aligned and names a register, and its mask looks at align and group, and at the index too
outside the arrays. -/
theorem busTable_fields : ∀ r ∈ busTable,
    selAlign r.mask = 0b11#2 ∧ selGroup r.mask = 0b111#3 ∧ selAlign r.pattern = 0b00#2 ∧
      NamesRegister (selGroup r.pattern).toNat (selIndex r.pattern).val ∧
      (r.mask = 0x1FF#9 ∨ (selGroup r.pattern).toNat ≠ 0) := by decide

theorem selAlign_and (a b : BitVec 9) : selAlign (a &&& b) = selAlign a &&& selAlign b := BitVec.extractLsb'_and

theorem selGroup_and (a b : BitVec 9) : selGroup (a &&& b) = selGroup a &&& selGroup b := BitVec.extractLsb'_and

/-- A selector that a row covers is aligned and names a register, so it decodes. -/
theorem decodeSelector_of_covers {r : BusRow} (hr : r ∈ busTable) {sel : BitVec 9} (h : r.covers sel = true)
    (w : Word) : ∃ i, decodeSelector sel w = .ok i := by
  obtain ⟨maskAlign, maskGroup, halign, hnames, hmask⟩ := busTable_fields r hr
  have hsel : sel &&& r.mask = r.pattern := by simpa [BusRow.covers] using h
  have halignSel : selAlign sel = 0#2 := by
    rw [← halign, ← hsel, selAlign_and, maskAlign]
    exact BitVec.and_allOnes.symm
  have hgroupSel : selGroup sel = selGroup r.pattern := by
    rw [← hsel, selGroup_and, maskGroup]
    exact BitVec.and_allOnes.symm
  have hnamesSel : NamesRegister (selGroup sel).toNat (selIndex sel).val := by
    obtain hfull | harray := hmask
    · have heq : sel = r.pattern := by
        rw [← hsel, hfull]
        exact BitVec.and_allOnes.symm
      rwa [heq]
    · rw [hgroupSel]
      exact .inr (hnames.resolve_left fun hcontrol => harray hcontrol.1)
  obtain ⟨-, hok⟩ | ⟨hno, -⟩ := decodeSelector_aligned w halignSel
  · exact hok
  · exact absurd hnamesSel hno

open Laws in
/-- Every instruction's encoding is a command word or a selector of its own row. -/
theorem encodeSelector (i : Instr) : EncodeSelector.Statement i := by
  cases i with
  | nop => exact EncodeSelector.nop
  | validate => exact EncodeSelector.validate
  | mult => exact EncodeSelector.mult
  | zeroize => exact EncodeSelector.zeroize
  | rdId => exact EncodeSelector.rdId
  | wrId w => exact EncodeSelector.wrId w
  | rdCtrl => exact EncodeSelector.rdCtrl
  | wrCtrl w => exact EncodeSelector.wrCtrl w
  | rdStatus => exact EncodeSelector.rdStatus
  | wrStatus w => exact EncodeSelector.wrStatus w
  | rdCmd => exact EncodeSelector.rdCmd
  | wrCmd w => exact EncodeSelector.wrCmd w
  | rdPubkeyPrefix => exact EncodeSelector.rdPubkeyPrefix
  | wrPubkeyPrefix w => exact EncodeSelector.wrPubkeyPrefix w
  | rdScalar i => exact EncodeSelector.rdScalar i
  | wrScalar i w => exact EncodeSelector.wrScalar i w
  | rdPubkeyX i => exact EncodeSelector.rdPubkeyX i
  | wrPubkeyX i w => exact EncodeSelector.wrPubkeyX i w

/-- The decoder's mnemonic is that of the first row that covers the selector. -/
theorem selector_mnemonic_eq_table (sel : BitVec 9) (w : Word) : (decodeSelector sel w).toOption.map Instr.mnemonic =
    (busTable.find? fun r => r.covers sel).map BusRow.mnemonic := by
  cases h : decodeSelector sel w with
  | ok i =>
    obtain ⟨v, hv⟩ := encode_of_decodeSelector h
    have hrow := encodeSelector i
    simp only [Laws.EncodeSelector.Statement, hv, selector_transactionOf] at hrow
    exact hrow.symm
  | error e =>
    have hnone : busTable.find? (fun r => r.covers sel) = none :=
      List.find?_eq_none.mpr fun r hr hcovers => by simpa [h] using decodeSelector_of_covers hr hcovers w
    simp [hnone, Except.toOption]

/-- Two rows differ in a bit that both of them look at. -/
theorem busTable_disjoint : busTable.Pairwise fun r q => r.pattern &&& q.mask ≠ q.pattern &&& r.mask := by decide

/-- Such rows cover no selector both. -/
theorem not_covers_of_disjoint {r q : BusRow} (h : r.pattern &&& q.mask ≠ q.pattern &&& r.mask) {sel : BitVec 9}
    (hr : r.covers sel = true) : q.covers sel ≠ true := by
  intro hq
  simp only [BusRow.covers, beq_iff_eq] at hr hq
  refine h ?_
  rw [← hr, ← hq, BitVec.and_assoc, BitVec.and_comm r.mask, BitVec.and_assoc]

theorem covered_once (sel : BitVec 9) : (busTable.filter fun r => r.covers sel).length ≤ 1 := by
  have hdisjoint := busTable_disjoint.filter fun r => r.covers sel
  have hcovers : ∀ r ∈ busTable.filter fun r => r.covers sel, r.covers sel = true := fun _ hr =>
    (List.mem_filter.mp hr).2
  generalize busTable.filter (fun r => r.covers sel) = rows at hdisjoint hcovers
  match rows with
  | [] | [_] => simp
  | r :: q :: rest =>
    have hrq := List.rel_of_pairwise_cons hdisjoint List.mem_cons_self
    exact absurd (hcovers q (by simp)) (not_covers_of_disjoint hrq (hcovers r (by simp)))

/-- Settles O41: decoding goes through the encoder to the row, and the rows are disjoint. -/
theorem selectorsDecodeByTheTable : Obligations.SelectorsDecodeByTheTable :=
  ⟨selector_mnemonic_eq_table, covered_once⟩

/-! ### Command words (R74, R75, R110) -/

theorem answer_cmdWord {i : Instr} {w : Word} (h : i.cmdWord = some w) (r : Regs) : answer i r = ⟨.ok, 0#32⟩ := by
  cases i <;> cases h <;> rfl

/-- An instruction that carries a command word writes it to CMD and answers `OK` (R110). -/
theorem exec_cmdWord {i : Instr} {w : Word} (h : i.cmdWord = some w) (s : State) :
    exec i s = .next ((s.commit (s.regs.cmdWrite w)).respond .ok 0#32) := by
  rw [exec_eq, effect_cmdWord h, answer_cmdWord h]

/-- Settles O17: an instruction's effect depends on its command word alone. -/
theorem commandWordsDispatch : Obligations.CommandWordsDispatch := by
  have hsame {i j : Instr} {w : Word} (hi : i.cmdWord = some w) (hj : j.cmdWord = some w) (s : State) :
      exec i s = exec j s := by rw [exec_cmdWord hi, exec_cmdWord hj]
  exact fun s => ⟨hsame rfl rfl s, hsame rfl rfl s, hsame rfl rfl s, hsame rfl rfl s⟩

theorem ne_of_four_le {w : Word} (h : 4 ≤ w.toNat) : w ≠ 0#32 ∧ w ≠ 1#32 ∧ w ≠ 2#32 ∧ w ≠ 3#32 := by
  refine ⟨?_, ?_, ?_, ?_⟩ <;> rintro rfl <;> exact absurd h (by decide)

/-- R75, in the decoder. -/
theorem decodeCommand_illegal {w : Word} (h : 4 ≤ w.toNat) : decodeCommand w = .wrCmd w := by
  obtain ⟨h0, h1, h2, h3⟩ := ne_of_four_le h
  simp [decodeCommand, h0, h1, h2, h3]

/-- R193. -/
theorem cmdWrite_illegal {w : Word} (h : 4 ≤ w.toNat) {r : Regs} (hbusy : r.busy = false) (hfault : r.fault = false) :
    r.cmdWrite w = { r with errcode := 2#4, done := true } := by
  obtain ⟨h0, h1, h2, h3⟩ := ne_of_four_le h
  simp [cmdWrite_accepted w hbusy hfault, Regs.acceptCmd, h0, h1, h2, h3, Regs.illegalCmd, errIllegalCmd]

/-- Settles O23: the word is none of R74's four, so it is decoded and accepted as an illegal command. -/
theorem illegalCommandReported : Obligations.IllegalCommandReported := by
  intro s w h hbusy hfault
  have hregs := cmdWrite_illegal h hbusy hfault
  have hcommit : s.commit (s.regs.cmdWrite w) = { s with regs := s.regs.cmdWrite w } :=
    State.commit_eq_of_no_rise (by simp [hregs])
  exact ⟨congrArg _ (decodeCommand_illegal h), by rw [exec_cmdWord rfl, hcommit, hregs]; rfl⟩

/-- Settles O39 by evaluation. -/
theorem sampleWordsDecode : Obligations.SampleWordsDecode := by
  unfold Obligations.SampleWordsDecode
  decide

end Sys2Proof.Machine

/-! SUPPORT. Proofs of 40_register_access.md: what an instruction that raises no fault leaves (R103 to R116), the words
of CTRL and STATUS, the result registers, the transactions that answer a bus error (R100 to R102), and the decoded
instruction as the step. -/

namespace Sys2Proof.Machine

/-- An instruction that does not raise FAULT changes its registers and the response, and nothing else of the state. -/
theorem exec_of_no_rise {i : Instr} {s : State} (h : (effect i s.regs).fault = true → s.regs.fault = true) :
    exec i s = .next { s with regs := effect i s.regs, response := some (answer i s.regs) } := by
  rw [exec_eq, State.commit_eq_of_no_rise h]
  rfl

/-- An instruction that leaves the registers alone changes the response, and nothing else of the state. -/
theorem exec_of_effect_eq {i : Instr} {s : State} (h : effect i s.regs = s.regs) :
    exec i s = .next { s with response := some (answer i s.regs) } := by
  rw [exec_eq, h, State.commit_self]
  rfl

/-! ### ID and the write-only and read-only registers -/

/-- Settles O3: a read leaves its answer, here the constant of R31. -/
theorem readIdReturnsConstant : Obligations.ReadIdReturnsConstant := exec_of_isRead rfl

/-- Settles O8: both are reads whose answer is 0. -/
theorem writeOnlyRegistersReadZero : Obligations.WriteOnlyRegistersReadZero := fun s =>
  ⟨exec_of_isRead rfl s, fun _ => exec_of_isRead rfl s⟩

/-- Settles O10: the three writes leave the registers alone and their answer is `ERR`. -/
theorem readOnlyRegistersRejectWrites : Obligations.ReadOnlyRegistersRejectWrites := fun _ _ =>
  ⟨exec_of_effect_eq rfl, exec_of_effect_eq rfl, fun _ => exec_of_effect_eq rfl⟩

/-! ### CTRL and STATUS -/

theorem flagWord_getLsbD (b : Bool) (j : Nat) : (flagWord b).getLsbD j = (decide (j = 0) && b) := by
  by_cases hj : j = 0 <;> simp [flagWord, hj]

/-- Settles O4: the answer is the flag IRQ_EN as a word. -/
theorem readCtrlReturnsIrqEn : Obligations.ReadCtrlReturnsIrqEn := by
  refine fun s => ⟨ctrlWord s.regs, exec_of_isRead rfl s, ?_, fun j hj => ?_⟩
  · rw [ctrlWord, flagWord_getLsbD]
    rfl
  · rw [ctrlWord, flagWord_getLsbD, decide_eq_false (Nat.ne_of_gt hj)]
    rfl

/-- Settles O5: neither the reset nor a write of IRQ_EN raises FAULT. -/
theorem writeCtrlResetsOrSetsIrqEn : Obligations.WriteCtrlResetsOrSetsIrqEn := by
  intro s w
  by_cases hreset : w[1] = true
  · have hregs : effect (.wrCtrl w) s.regs = Regs.reset := if_pos hreset
    rw [exec_of_no_rise (by simp [hregs, Regs.reset]), hregs, if_pos hreset]
    rfl
  · have hregs : effect (.wrCtrl w) s.regs = { s.regs with irqEn := w[0] } := if_neg hreset
    rw [exec_of_no_rise (by simp [hregs]), hregs, if_neg hreset]
    rfl

/-- A field of `k` bits placed at bit `n` of a word. -/
theorem toNat_field {k : Nat} (x : BitVec k) (n : Nat) (h : k + n ≤ 32) :
    (x.setWidth 32 <<< n).toNat = x.toNat * 2 ^ n := by
  have hx : x.toNat * 2 ^ n < 2 ^ 32 := calc
    x.toNat * 2 ^ n < 2 ^ k * 2 ^ n := Nat.mul_lt_mul_of_pos_right x.isLt (Nat.two_pow_pos n)
    _ = 2 ^ (k + n) := (pow_add 2 k n).symm
    _ ≤ 2 ^ 32 := Nat.pow_le_pow_right (by decide) h
  rw [BitVec.toNat_shiftLeft, BitVec.toNat_setWidth, Nat.shiftLeft_eq, Nat.mod_mul_mod, Nat.mod_eq_of_lt hx]

/-- A flag placed at bit `n` of a word. -/
theorem toNat_flag (b : Bool) (n : Nat) (h : 1 + n ≤ 32) : (flagWord b <<< n).toNat = b.toNat * 2 ^ n := by
  rw [flagWord, toNat_field _ n h, BitVec.toNat_ofBool]

/-- A word whose fields end at bit `n + k`, joined with a field of at most `k` bits at bit `n`. -/
theorem toNat_or_field {hi lo : Word} {a b n : Nat} (k : Nat) (hhi : hi.toNat = a * 2 ^ (n + k))
    (hlo : lo.toNat = b * 2 ^ n) (hb : b < 2 ^ k) : (hi ||| lo).toNat = (a * 2 ^ k + b) * 2 ^ n := by
  have hlt : lo.toNat < 2 ^ (n + k) := by
    rw [hlo, pow_add, mul_comm]
    exact Nat.mul_lt_mul_of_pos_left hb (Nat.two_pow_pos n)
  rw [BitVec.toNat_or, hhi, mul_comm a, ← Nat.two_pow_add_eq_or_of_lt hlt, hlo]
  ring

/-- The fields of STATUS do not overlap, so the word is their sum (R107). -/
theorem statusWord_toNat (r : Regs) : (statusWord r).toNat =
    r.errcode.toNat * 2 ^ 12 + r.reason.toNat * 2 ^ 8 + r.drop.toNat * 2 ^ 5 + r.fault.toNat * 2 ^ 4 +
      r.outValid.toNat * 2 ^ 3 + r.valid.toNat * 2 ^ 2 + r.done.toNat * 2 ^ 1 + r.busy.toNat := by
  have hreason := toNat_or_field 4 (toNat_field r.errcode 12 (by decide)) (toNat_field r.reason 8 (by decide))
    (Nat.lt_trans r.reason.isLt (by decide))
  have hdrop := toNat_or_field 3 hreason (toNat_flag r.drop 5 (by decide)) (Nat.lt_trans r.drop.toNat_lt (by decide))
  have hfault := toNat_or_field 1 hdrop (toNat_flag r.fault 4 (by decide)) r.fault.toNat_lt
  have houtValid := toNat_or_field 1 hfault (toNat_flag r.outValid 3 (by decide)) r.outValid.toNat_lt
  have hvalid := toNat_or_field 1 houtValid (toNat_flag r.valid 2 (by decide)) r.valid.toNat_lt
  have hdone := toNat_or_field 1 hvalid (toNat_flag r.done 1 (by decide)) r.done.toNat_lt
  have hbusy := toNat_or_field 1 hdone (toNat_flag r.busy 0 (by decide)) r.busy.toNat_lt
  rw [BitVec.shiftLeft_zero] at hbusy
  rw [statusWord, hbusy]
  ring

/-- Settles O6: the answer is the STATUS word, whose value is the sum of its fields. -/
theorem readStatusLayout : Obligations.ReadStatusLayout := fun s =>
  ⟨statusWord s.regs, exec_of_isRead rfl s, statusWord_toNat s.regs⟩

/-- Settles O7: the write leaves FAULT, and clearing a flag is the `and` with the negated bit. -/
theorem writeStatusClearsDoneAndDrop : Obligations.WriteStatusClearsDoneAndDrop := by
  intro s w
  have hclear (flag bit : Bool) : (flag && !bit) = if bit = true then false else flag := by cases bit <;> simp
  rw [exec_of_no_rise id, effect, hclear, hclear]
  rfl

/-! ### PUBKEY and SCALAR -/

/-- (I4) of R36, word by word. -/
theorem Regs.Inv.result_zero {r : Regs} (h : r.Inv) (hout : r.outValid = false) :
    r.pubkeyPrefix = 0x00#8 ∧ ∀ i : Fin 8, r.pubkeyX[i] = 0#32 := by
  obtain ⟨-, -, -, h4, -⟩ := h
  obtain ⟨hprefix, hx⟩ := h4 hout
  exact ⟨hprefix, fun i => by simp [hx, zeroWords]⟩

/-- Settles O9: the reads answer the registers, which are 0 by (I4). -/
theorem resultRegistersRead : Obligations.ResultRegistersRead := by
  intro s
  refine ⟨⟨s.regs.pubkeyPrefix.setWidth 32, exec_of_isRead rfl s, ?_, fun hinv hout => ?_⟩,
    fun i => ⟨exec_of_isRead rfl s, fun hinv hout => (hinv.result_zero hout).2 i⟩⟩
  · exact BitVec.toNat_setWidth_of_le (by decide)
  · rw [(hinv.result_zero hout).1]; rfl

/-- Settles O11: neither the store nor the drop raises FAULT. -/
theorem writeScalarStoresOrDrops : Obligations.WriteScalarStoresOrDrops := by
  intro s i w
  constructor
  · intro hbusy
    have hregs : effect (.wrScalar i w) s.regs = { s.regs with scalar := s.regs.scalar.set i w } := by
      simp [effect, hbusy]
    refine ⟨s.regs.scalar.set i w, ?_, by simp, fun j hj => ?_⟩
    · rw [exec_of_no_rise (by simp [hregs]), hregs]
      rfl
    · exact Vector.getElem_set_ne _ _ (fun h => hj (Fin.ext h.symm))
  · intro hbusy
    have hregs : effect (.wrScalar i w) s.regs = s.regs.dropWrite := if_pos hbusy
    rw [exec_of_no_rise (by simp [hregs]), hregs]
    rfl

/-! ### The step of a Host operation -/

/-- A transaction that fails a check of R78 answers the bus error of R100, and the step changes nothing else. -/
theorem step_ill_formed {s : State} {t : Transaction} {rest : List Event} (hr : s.resetSeen = true)
    (h : s.agenda = .host (.bus t) :: rest) (ht : t.wellFormed = false) :
    step s = .next { s with response := some ⟨.err, 0#32⟩, agenda := rest } := by
  cases hd : decode (.bus t) with
  | ok i => exact Bool.noConfusion (ht.symm.trans (wellFormed_of_decode hd))
  | error e => exact step_host_error hr h hd

/-- The offsets of R102 belong to no register. -/
theorem mapped_eq_false {t : Transaction}
    (h : (0x14 ≤ t.off.toNat ∧ t.off.toNat ≤ 0x1F) ∨ 0x60 ≤ t.off.toNat) : t.mapped = false := by
  simp only [Transaction.mapped, mappedRanges, List.any_cons, List.any_nil, Bool.or_false, Bool.or_eq_false_iff,
    Bool.and_eq_false_iff, decide_eq_false_iff_not]
  omega

/-- Settles O43: each disjunct fails a check of R78, and the decoder's rejection is the bus error. -/
theorem badTransactionsAnswerBusError : Obligations.BadTransactionsAnswerBusError := by
  intro s t rest hr h hbad
  apply step_ill_formed hr h
  rw [Transaction.wellFormed]
  obtain hsize | hstrb | halign | hoff := hbad
  · rw [(widthAndStrobes_eq_false t).mpr (.inl hsize)]; rfl
  · rw [(widthAndStrobes_eq_false t).mpr (.inr hstrb)]; rfl
  · rw [Transaction.aligned, beq_false_of_ne halign, Bool.and_false]; rfl
  · rw [mapped_eq_false hoff, Bool.and_false]

/-- A table word's instruction is what its operation decodes to (log 8). -/
theorem decode_of_decodeTableWord {nbits w : Nat} {i : Instr} (h : decodeTableWord nbits w = some i) :
    decode (tableOp nbits w) = .ok i := by
  unfold decodeTableWord at h
  split at h
  case h_1 hd => rw [hd, Option.some.inj h]
  case h_2 => cases h

/-- Settles O44: a placed table word is the event at the head of the agenda, and without it the state is the one
before. -/
theorem stepRunsTheDecodedInstruction : Obligations.StepRunsTheDecodedInstruction :=
  ⟨fun _ _ _ _ hr h hd => step_host_ok hr h hd, fun s nbits w _ hr hi =>
    step_host_ok (s := s.withFetchWord nbits w) hr rfl (decode_of_decodeTableWord hi)⟩

end Sys2Proof.Machine

/-! SUPPORT. Proofs of 41_validate.md: the scalar value (R130), its classification against the order (R131, R132, R134)
and VALIDATE (R133). -/

namespace Sys2Proof.Machine

/-! ### The scalar value -/

theorem scalarValue_eq_sum (w : Words8) : scalarValue w = ∑ i : Fin 8, w[i].toNat * 2 ^ (32 * (7 - i.val)) := by
  rw [Fin.sum_univ_eight]
  simp [scalarValue, Nat.mul_comm]

/-- Each word is at most `2^32 - 1`, and eight such words make `2^256 - 1`. -/
theorem scalarValue_lt (w : Words8) : scalarValue w < 2 ^ 256 := calc
  scalarValue w = ∑ i : Fin 8, w[i].toNat * 2 ^ (32 * (7 - i.val)) := scalarValue_eq_sum w
  _ ≤ ∑ i : Fin 8, (2 ^ 32 - 1) * 2 ^ (32 * (7 - i.val)) :=
    Finset.sum_le_sum fun i _ => Nat.mul_le_mul_right _ (Nat.le_pred_of_lt w[i].isLt)
  _ < 2 ^ 256 := by decide

/-- Settles O14: the value is the sum written out, and eight digits in base 2^32 are below 2^256. -/
theorem scalarValueIsBigEndianSum : Obligations.ScalarValueIsBigEndianSum := fun w =>
  ⟨scalarValue_eq_sum w, scalarValue_lt w⟩

/-! ### The classification -/

theorem classify_valid_iff (k : Nat) : (classify k).1 = true ↔ 1 ≤ k ∧ k < groupOrder := by
  rw [classify_eq, decide_eq_true_iff]

theorem classify_zero : classify 0 = (false, 1#2) := classify_invalid (by decide)

theorem classify_geOrder {k : Nat} (h : groupOrder ≤ k) : classify k = (false, 2#2) := by
  have hpos : k ≠ 0 := Nat.ne_of_gt (Nat.lt_of_lt_of_le (by decide) h)
  rw [classify_invalid fun hv => Nat.not_le.mpr hv.2 h, if_neg hpos]

/-- REASON tells the three ranges of R132 apart: zero, at least the order, and what is left. -/
theorem classify_reason_iff (k : Nat) :
    ((classify k).2 = 1#2 ↔ k = 0) ∧ ((classify k).2 = 2#2 ↔ groupOrder ≤ k) := by
  by_cases h0 : k = 0
  · subst h0
    rw [classify_zero]
    decide
  by_cases hn : groupOrder ≤ k
  · simp [classify_geOrder hn, h0, hn]
  · simp [classify_valid (Nat.pos_of_ne_zero h0) (Nat.not_le.mp hn), h0, hn]

/-- Settles O16: VALID and REASON by the range of the scalar, and each boundary by the range it lies in. -/
theorem classifyDecidesValidity : Obligations.ClassifyDecidesValidity := by
  refine ⟨fun k => ?_, classify_valid (by decide) (by decide), classify_geOrder le_rfl, classify_zero,
    classify_valid le_rfl (by decide), classify_geOrder (Nat.le_succ _), classify_geOrder (by decide)⟩
  obtain ⟨-, hinRange, -⟩ := classify_reason k
  obtain ⟨hzero, hgeOrder⟩ := classify_reason_iff k
  exact ⟨classify_valid_iff k, hinRange.symm, hzero, hgeOrder⟩

/-! ### VALIDATE -/

/-- R133, in closed form. -/
theorem cmdWrite_validate {r : Regs} (hbusy : r.busy = false) (hfault : r.fault = false) :
    r.cmdWrite 1#32 = { r with
      valid := decide (1 ≤ scalarValue r.scalar ∧ scalarValue r.scalar < groupOrder)
      reason := if scalarValue r.scalar = 0 then 1#2 else if groupOrder ≤ scalarValue r.scalar then 2#2 else 0#2
      errcode := 0x0#4
      done := true } := by
  rw [cmdWrite_accepted _ hbusy hfault, Regs.acceptCmd, if_neg (by decide), if_pos rfl, Regs.validate, classify_eq]
  rfl

/-- Settles O19: an invalid scalar raises no FAULT here, so VALIDATE changes its registers and the response alone. -/
theorem validateAccepted : Obligations.ValidateAccepted := by
  intro s hbusy hfault
  have hregs : effect .validate s.regs = _ := cmdWrite_validate hbusy hfault
  rw [exec_of_no_rise (by simp [hregs]), hregs]
  rfl

end Sys2Proof.Machine

/-! SUPPORT. Proofs of 42_mult.md, the machine: MULT accepted or refused (R162, R213), and its completion by the Engine
(R163, R165). -/

namespace Sys2Proof.Machine

/-! ### Acceptance -/

/-- Registers that raise FAULT make the fault mark (R10). -/
theorem State.commit_eq_of_rise {s : State} {r : Regs} (hs : s.regs.fault = false) (hr : r.fault = true) :
    s.commit r = { s with regs := r, faultMark := true } := by
  simp [State.commit, hs, hr]

/-- Settles O20: the registers of the two closed forms of the CMD write; the valid one raises no FAULT, the invalid one
does. -/
theorem multAccepted : Obligations.MultAccepted := by
  intro s hbusy hfault
  constructor
  · rintro ⟨hpos, hlt⟩
    have hregs : effect .mult s.regs = _ := cmdWrite_mult_valid hbusy hfault hpos hlt
    rw [exec_of_no_rise (by simp [hregs]), hregs]
    rfl
  · intro hinvalid
    have hregs : effect .mult s.regs = _ := cmdWrite_mult_invalid hbusy hfault hinvalid
    rw [exec_eq, hregs, State.commit_eq_of_rise hfault rfl]
    rfl

/-! ### Completion -/

theorem multKey_of_mul_eq_affine {k : BitVec 256} {x y : Nat} (h : Point.mul k.toNat generator = .affine x y) :
    multKey k = compress x y := by
  rw [multKey, multResult, h]

theorem packX_compress (x y : Nat) :
    packX (compress x y) = Vector.ofFn fun i : Fin 8 => BitVec.ofNat 32 (x / 2 ^ (32 * (7 - i.val))) := by
  ext1 i hi
  rw [packX_compress_get x y i hi, Vector.getElem_ofFn]

/-- Settles O24: the completion writes the compressed form of the affine product, and an idle Engine turn nothing. -/
theorem engineCompletesMult : Obligations.EngineCompletesMult := by
  intro s rest hseen hagenda
  constructor
  · intro x y hbusy hmul
    rw [step_engine hseen hagenda, engineTurn_busy (by exact hbusy), State.withAgenda_regs, Regs.multComplete,
      multKey_of_mul_eq_affine hmul, compress_firstByte, packX_compress]
    rfl
  · intro hbusy t h
    rw [step_engine hseen hagenda, engineTurn_idle (by exact hbusy)] at h
    cases h
    rfl

/-- MULT of a valid scalar and the Engine's turn: the key of that scalar, from any idle registers (R162, R163). -/
theorem run_mult_engine {s : State} {rest : List Event} (hseen : s.resetSeen = true) (hbusy : s.regs.busy = false)
    (hfault : s.regs.fault = false) (hpos : 1 ≤ scalarValue s.regs.scalar)
    (hlt : scalarValue s.regs.scalar < groupOrder) (hagenda : s.agenda = .host (.cmd 2#32) :: .engine :: rest) :
    ∃ t, runSteps 2 s = .next t ∧ t.regs.outValid = true ∧
      t.regs.pubkeyPrefix = (multKey (BitVec.ofNat 256 (scalarValue s.regs.scalar)))[0] ∧
      t.regs.pubkeyX = packX (multKey (BitVec.ofNat 256 (scalarValue s.regs.scalar))) := by
  have hmult := step_host_eq (i := .mult) hseen hagenda rfl
  have hregs : effect .mult s.regs = _ := cmdWrite_mult_valid hbusy hfault hpos hlt
  rw [hregs] at hmult
  rw [run_succ hmult, run_succ (step_engine_turn (by simpa using hseen) rfl)]
  exact ⟨_, rfl, rfl, rfl, rfl⟩

/-- Settles O27: both runs end with the key of the one scalar. -/
theorem resultDependsOnScalarAlone : Obligations.ResultDependsOnScalarAlone := by
  intro s u restS restU hseenS hseenU hbusyS hbusyU hfaultS hfaultU hscalar hpos hlt hagendaS hagendaU
  obtain ⟨s', hrunS, houtS, hprefixS, hxS⟩ := run_mult_engine hseenS hbusyS hfaultS hpos hlt hagendaS
  rw [hscalar] at hpos hlt hprefixS hxS
  obtain ⟨u', hrunU, houtU, hprefixU, hxU⟩ := run_mult_engine hseenU hbusyU hfaultU hpos hlt hagendaU
  exact ⟨s', u', hrunS, hrunU, houtS, houtU, hprefixS.trans hprefixU.symm, hxS.trans hxU.symm⟩

end Sys2Proof.Machine

/-! SUPPORT. Proofs of 42_mult.md, the curve: the field (R151), the group law on the points of the curve (R153 to R157)
and multiplication (R158 to R160), through the group element each point of the model stands for. -/

namespace Sys2Proof.Machine

open WeierstrassCurve.Affine

/-! ### The field -/

theorem powP_lt (bits b e : Nat) : powP bits b e < fieldPrime := by
  induction bits generalizing b e with
  | zero => exact (by decide : 1 < fieldPrime)
  | succ bits ih =>
    rw [powP]
    split
    · exact mulP_lt _ _
    · exact ih _ _

theorem invP_lt (a : Nat) : invP a < fieldPrime := powP_lt _ _ _

theorem invP_eq_pow (a : Nat) : invP a = a ^ (fieldPrime - 2) % fieldPrime := calc
  invP a = invP a % fieldPrime := (Nat.mod_eq_of_lt (invP_lt a)).symm
  _ = a ^ (fieldPrime - 2) % fieldPrime := by
    rw [invP, powP_eq_powMod, powMod_mod _ _ _ _ (by decide)]

theorem subP_cast_int (a b : Nat) : ((subP a b : Nat) : Int) = ((a : Int) - b) % fieldPrime := by
  simp only [subP, fieldPrime]
  omega

theorem mulP_invP {a : Nat} (ha : a % fieldPrime ≠ 0) : mulP a (invP a) = 1 := by
  have := fact_fieldPrime
  rw [← cast_inj (mulP_lt _ _) (by decide), cast_mulP, cast_invP, Nat.cast_one]
  exact mul_inv_cancel₀ (mt (cast_eq_zero a).mp ha)

/-- Settles O33: sum and product are residues as they stand; the rest is a lemma each. -/
theorem fieldOperations : Obligations.FieldOperations := fun a b =>
  ⟨rfl, subP_cast_int a b, rfl, invP_eq_pow a, mulP_invP⟩

/-! ### No point of order two -/

/-- `-7` is not a cube in `F_p`: its power to `(p-1)/3` is not 1. -/
theorem neg_seven_not_cube : powMod fieldPrime 256 (fieldPrime - 7) ((fieldPrime - 1) / 3) % fieldPrime ≠ 1 := by
  decide +kernel

/-- The equation with `y = 0` would make `-7` the cube of `x`, and `-7` to `(p-1)/3` the power `x^(p-1) = 1`. -/
theorem cube_add_seven_ne_zero (x : Fp) : x ^ 3 + 7 ≠ 0 := by
  have := fact_fieldPrime
  intro h
  have hcube : x ^ 3 = ((fieldPrime - 7 : Nat) : Fp) := by
    rw [Nat.cast_sub (by decide), cast_fieldPrime, zero_sub]
    exact eq_neg_of_add_eq_zero_left h
  have hx : x ≠ 0 := by
    rintro rfl
    exact seven_ne_zero (by simpa using h)
  apply neg_seven_not_cube
  rw [powMod_mod _ _ _ _ (by decide), ← Nat.mod_eq_of_lt (by decide : 1 < fieldPrime), ← ZMod.natCast_eq_natCast_iff',
    Nat.cast_pow, Nat.cast_one, ← hcube, ← pow_mul, Nat.mul_div_cancel' (by decide)]
  exact ZMod.pow_card_sub_one_eq_one hx

/-- Settles O32: the equation at `y = 0` is `x^3 + 7 = 0`. -/
theorem noCurvePointHasZeroY : Obligations.NoCurvePointHasZeroY := by
  rintro x y h rfl
  obtain ⟨-, -, heq⟩ := (onCurve_affine x 0).mp h
  apply cube_add_seven_ne_zero x
  exact_mod_cast (cast_eq_zero (x ^ 3 + 7)).mpr heq.symm

/-! ### The group law -/

section
variable [Fact (Nat.Prime fieldPrime)]

/-- The model's point `p` lies on the curve and is the element `g` of its group. -/
def Point.Represents (p : Point) (g : curve.toAffine.Point) : Prop := p.onCurve = true ∧ p.toGroup = g

theorem represents_toGroup {p : Point} (hp : p.onCurve = true) : p.Represents p.toGroup := ⟨hp, rfl⟩

theorem represents_infinity : Point.infinity.Represents 0 := ⟨rfl, toGroup_infinity⟩

/-- A group element has one representative. -/
theorem Point.Represents.unique {p q : Point} {g : curve.toAffine.Point} (hp : p.Represents g) (hq : q.Represents g) :
    p = q :=
  toGroup_inj hp.1 hq.1 (hp.2.trans hq.2.symm)

/-- Canonical coordinates of an affine group element represent it. -/
theorem represents_some {x y : Nat} {X Y : Fp} (h : curve.toAffine.Nonsingular X Y) (hx : x < fieldPrime)
    (hy : y < fieldPrime) (hX : (x : Fp) = X) (hY : (y : Fp) = Y) : (Point.affine x y).Represents (.some X Y h) := by
  subst hX hY
  have heq := (equation_iff_onCurve x y).mp h.1
  exact ⟨(onCurve_affine x y).mpr ⟨hx, hy, heq⟩, toGroup_affine heq⟩

/-- The affine points of the curve, as group elements. -/
theorem represents_affine {x y : Nat} (h : (Point.affine x y).onCurve = true) :
    ∃ hns, (Point.affine x y).Represents (.some (x : Fp) y hns) := by
  obtain ⟨-, -, heq⟩ := (onCurve_affine x y).mp h
  exact ⟨nonsingular_of_eq heq, h, toGroup_affine heq⟩

theorem Point.Represents.neg {p : Point} {g : curve.toAffine.Point} (hp : p.Represents g) : p.neg.Represents (-g) := by
  obtain ⟨hp, rfl⟩ := hp
  cases p with
  | infinity => exact represents_infinity
  | affine x y =>
    obtain ⟨hx, hy, -⟩ := (onCurve_affine x y).mp hp
    obtain ⟨hns, -, hgroup⟩ := represents_affine hp
    rw [hgroup, WeierstrassCurve.Affine.Point.neg_some]
    refine represents_some _ hx (Nat.mod_lt _ (by decide)) rfl ?_
    rw [cast_mod, Nat.cast_sub hy.le, cast_fieldPrime, zero_sub]
    simp [negY, curve]

theorem Point.Represents.add {p q : Point} {g h : curve.toAffine.Point} (hp : p.Represents g) (hq : q.Represents h) :
    (p.add q).Represents (g + h) := by
  obtain ⟨hp, rfl⟩ := hp
  obtain ⟨hq, rfl⟩ := hq
  cases p with
  | infinity =>
    rw [toGroup_infinity, zero_add]
    exact represents_toGroup hq
  | affine x1 y1 =>
    cases q with
    | infinity =>
      rw [toGroup_infinity, add_zero]
      exact represents_toGroup hp
    | affine x2 y2 =>
      obtain ⟨hx1, -, -⟩ := (onCurve_affine x1 y1).mp hp
      obtain ⟨hx2, -, -⟩ := (onCurve_affine x2 y2).mp hq
      obtain ⟨_, -, hgroup1⟩ := represents_affine hp
      obtain ⟨_, -, hgroup2⟩ := represents_affine hq
      have hopp := opposite_iff (y1 := y1) (y2 := y2) hx1 hx2
      rw [hgroup1, hgroup2]
      by_cases hneg : x1 = x2 ∧ (y1 + y2) % fieldPrime = 0
      · obtain ⟨hX, hY⟩ := hopp.mp hneg
        rw [Point.add, if_pos hneg, WeierstrassCurve.Affine.Point.add_of_Y_eq hX hY]
        exact represents_infinity
      · obtain ⟨l, hadd, hslope⟩ := add_eq_chordPoint hp hq hneg
        obtain ⟨x3, y3, hchord, hx3, hy3, hX, hY⟩ := chordPoint_coords l x1 y1 x2
        rw [hadd, hchord, WeierstrassCurve.Affine.Point.add_some (mt hopp.mpr hneg)]
        exact represents_some _ hx3 hy3 (hslope ▸ hX) (hslope ▸ hY)

end

/-- Settles O34: sum and negative represent the sum and the negative of the group, where `g + -g = 0`. -/
theorem additionStaysOnCurve : Obligations.AdditionStaysOnCurve := by
  have := fact_fieldPrime
  intro p q hp hq
  have hrep := represents_toGroup hp
  refine ⟨(hrep.add (represents_toGroup hq)).1, hrep.neg.1, (hrep.add hrep.neg).unique ?_,
    (hrep.neg.add hrep).unique ?_⟩
  · rw [add_neg_cancel]
    exact represents_infinity
  · rw [neg_add_cancel]
    exact represents_infinity

/-- Settles O35: equal abscissae that are not opposite have one `y`, for the equation has at most the two roots `y` and
`-y`. -/
theorem slopeNeverInvertsZero : Obligations.SlopeNeverInvertsZero := by
  have := fact_fieldPrime
  intro x1 y1 x2 y2 h1 h2 hneg
  obtain ⟨hx1, hy1, heq1⟩ := (onCurve_affine x1 y1).mp h1
  obtain ⟨hx2, hy2, heq2⟩ := (onCurve_affine x2 y2).mp h2
  have hopp := mt (opposite_iff hx1 hx2).mpr hneg
  constructor
  · rintro rfl
    have hY : y1 = y2 := (cast_inj hy1 hy2).mp <| Y_eq_of_Y_ne ((equation_iff_onCurve _ _).mpr heq1)
      ((equation_iff_onCurve _ _).mpr heq2) rfl fun h => hopp ⟨rfl, h⟩
    refine ⟨hY, fun h => hneg ⟨rfl, ?_⟩⟩
    rwa [← hY, ← two_mul]
  · intro hne h
    have hsub : (x2 : Fp) - x1 = 0 := by rw [← cast_subP, h, Nat.cast_zero]
    exact hne ((cast_inj hx2 hx1).mp (sub_eq_zero.mp hsub)).symm

/-! ### Multiplication -/

section
variable [Fact (Nat.Prime fieldPrime)] {p : Point} {g : curve.toAffine.Point}

theorem Point.Represents.repeatAdd (hp : p.Represents g) (k : Nat) : (p.repeatAdd k).Represents (k • g) := by
  induction k with
  | zero =>
    rw [zero_nsmul]
    exact represents_infinity
  | succ k ih =>
    rw [succ_nsmul]
    exact ih.add hp

/-- Each round doubles the multiple so far and adds the next bit (R159). -/
theorem Point.Represents.mulBits (hp : p.Represents g) (bits k : Nat) (hk : k < 2 ^ bits) :
    (p.mulBits bits k).Represents (k • g) := by
  induction bits generalizing k with
  | zero =>
    obtain rfl : k = 0 := by simpa using hk
    rw [zero_nsmul]
    exact represents_infinity
  | succ bits ih =>
    have hhalf := ih (k / 2) (by rw [pow_succ] at hk; omega)
    have hdouble := hhalf.add hhalf
    rw [← add_nsmul] at hdouble
    rw [Point.mulBits]
    split
    · rw [show k • g = (k / 2 + k / 2) • g + g by rw [← succ_nsmul]; congr 1; omega]
      exact hdouble.add hp
    · rwa [show k • g = (k / 2 + k / 2) • g by congr 1; omega]

theorem Point.Represents.mul (hp : p.Represents g) {k : Nat} (hk : k < 2 ^ 256) : (Point.mul k p).Represents (k • g) :=
  hp.mulBits 256 k hk

end

/-- Settles O36: both represent the multiple `k • g`. -/
theorem doubleAndAddIsRepeatedAddition : Obligations.DoubleAndAddIsRepeatedAddition := by
  have := fact_fieldPrime
  intro p k hp hk
  have hrep := represents_toGroup hp
  exact (hrep.mul hk).unique (hrep.repeatAdd k)

/-! ### The generator -/

theorem generator_onCurve : generator.onCurve = true := by decide +kernel

/-- The double-and-add of R159 run on the order, in the kernel. -/
theorem mul_groupOrder_generator : Point.mul groupOrder generator = .infinity := by decide +kernel

/-- Settles O31: the coordinates as written, the equation at them, and the run of the algorithm. -/
theorem orderTimesGeneratorIsInfinity : Obligations.OrderTimesGeneratorIsInfinity :=
  ⟨rfl, generator_onCurve, mul_groupOrder_generator⟩


section
variable [Fact (Nat.Prime fieldPrime)]

theorem generator_represents : generator.Represents generator.toGroup := represents_toGroup generator_onCurve

theorem groupOrder_nsmul_generator : groupOrder • generator.toGroup = 0 := by
  have h := generator_represents.mul groupOrder_lt
  rw [mul_groupOrder_generator] at h
  exact h.2.symm.trans toGroup_infinity

/-- The order of `G` is `n`: it divides the prime `n`, and `G` is not `O` (R154). -/
theorem addOrderOf_generator : addOrderOf generator.toGroup = groupOrder := by
  have : Fact groupOrder.Prime := ⟨groupOrder_prime⟩
  refine addOrderOf_eq_prime groupOrder_nsmul_generator fun h => ?_
  have hinf : generator = .infinity := generator_represents.unique (h ▸ represents_infinity)
  cases hinf

/-- `(n-k)·G = -(k·G)`. -/
theorem mul_groupOrder_sub {k : Nat} (hk : k ≤ groupOrder) :
    Point.mul (groupOrder - k) generator = (Point.mul k generator).neg := by
  have hneg : (groupOrder - k) • generator.toGroup = -(k • generator.toGroup) := by
    rw [eq_neg_iff_add_eq_zero, ← add_nsmul, Nat.sub_add_cancel hk, groupOrder_nsmul_generator]
  have hleft := generator_represents.mul (Nat.lt_of_le_of_lt (Nat.sub_le groupOrder k) groupOrder_lt)
  rw [hneg] at hleft
  exact hleft.unique (generator_represents.mul (Nat.lt_of_le_of_lt hk groupOrder_lt)).neg

end

/-- Settles O37: the order `n` of `G` divides no `k` below it. -/
theorem validScalarGivesAffinePoint : Obligations.ValidScalarGivesAffinePoint := by
  have := fact_fieldPrime
  intro k hpos hle
  have hlt : k < groupOrder := Nat.lt_of_le_of_lt hle (by decide)
  have hrep := generator_represents.mul (Nat.lt_trans hlt groupOrder_lt)
  cases hmul : Point.mul k generator with
  | affine x y => exact ⟨x, y, rfl⟩
  | infinity =>
    rw [hmul] at hrep
    have hdvd := addOrderOf_dvd_of_nsmul_eq_zero (hrep.2.symm.trans toGroup_infinity)
    rw [addOrderOf_generator] at hdvd
    exact absurd (Nat.le_of_dvd hpos hdvd) (Nat.not_le.mpr hlt)

/-- The parity byte tells even from odd (R161). -/
theorem parityByte_eq_iff (y z : Nat) : parityByte y = parityByte z ↔ y % 2 = z % 2 := by
  obtain hy | hy := Nat.mod_two_eq_zero_or_one y <;> obtain hz | hz := Nat.mod_two_eq_zero_or_one z <;>
    simp [parityByte, hy, hz]

/-- `p` is odd, so a nonzero `y` and `p - y` differ in parity. -/
theorem parityByte_neg {y : Nat} (hpos : y ≠ 0) (hlt : y < fieldPrime) :
    parityByte y ≠ parityByte ((fieldPrime - y) % fieldPrime) := by
  have hodd : fieldPrime % 2 = 1 := by decide
  rw [Ne, parityByte_eq_iff, Nat.mod_eq_of_lt (Nat.sub_lt (Nat.zero_lt_of_lt hlt) (Nat.pos_of_ne_zero hpos))]
  generalize fieldPrime = p at *
  omega

/-- Settles O38: `(n-k)·G` is the negative of `k·G`, whose `y` is not 0. -/
theorem negatedScalarHasOppositePrefix : Obligations.NegatedScalarHasOppositePrefix := by
  have := fact_fieldPrime
  intro k hpos hle
  have hlt : k < groupOrder := Nat.lt_of_le_of_lt hle (by decide)
  obtain ⟨x, y, hmul⟩ := validScalarGivesAffinePoint k hpos hle
  have hcurve := (generator_represents.mul (Nat.lt_trans hlt groupOrder_lt)).1
  rw [hmul] at hcurve
  obtain ⟨-, hy, -⟩ := (onCurve_affine x y).mp hcurve
  refine ⟨x, y, (fieldPrime - y) % fieldPrime, hmul, ?_, parityByte_neg (noCurvePointHasZeroY x y hcurve) hy⟩
  rw [mul_groupOrder_sub hlt.le, hmul, Point.neg]

end Sys2Proof.Machine

/-! SUPPORT. Proofs of 43_housekeeping.md: NOP and ZEROIZE accepted (R190, R191), and every command word in the fault
state (R192, R214). -/

namespace Sys2Proof.Machine

/-- A command that raises no FAULT leaves the registers of its CMD write and the response `OK`, and nothing else
changes. -/
theorem exec_cmdWord_of_no_rise {i : Instr} {w : Word} (h : i.cmdWord = some w) {s : State} {r : Regs}
    (hregs : s.regs.cmdWrite w = r) (hrise : r.fault = true → s.regs.fault = true) :
    exec i s = .next { s with regs := r, response := some ⟨.ok, 0#32⟩ } := by
  rw [exec_cmdWord h, hregs, State.commit_eq_of_no_rise hrise]
  rfl

/-- R110, in the fault state. -/
theorem cmdWrite_faulted {r : Regs} (w : Word) (hbusy : r.busy = false) (hfault : r.fault = true) :
    r.cmdWrite w = r.faultedCmd w := by
  simp [Regs.cmdWrite, hbusy, hfault]

/-- Settles O22: the registers are those of `FaultedCmd` (R214), by whether the word is ZEROIZE's; FAULT was 1 before, so
no word raises it. -/
theorem commandsInFaultState : Obligations.CommandsInFaultState := by
  intro s hbusy hfault
  have hregs (w : Word) : s.regs.cmdWrite w = s.regs.faultedCmd w := cmdWrite_faulted w hbusy hfault
  constructor
  · intro i hi
    rw [exec_cmdWord_of_no_rise hi (hregs _) fun _ => hfault, Regs.faultedCmd, if_pos rfl]
    rfl
  · intro i w hi hw
    rw [exec_cmdWord_of_no_rise hi (hregs w) fun _ => hfault, Regs.faultedCmd, if_neg hw]

/-- Settles O18: word 0 is accepted as `Nop()` (R190), which leaves FAULT at 0. -/
theorem nopAccepted : Obligations.NopAccepted := by
  intro s hbusy hfault
  rw [exec_cmdWord_of_no_rise rfl (cmdWrite_accepted 0#32 hbusy hfault) id]
  rfl

/-- Settles O21: word 3 is accepted as `Zeroize()` (R191), which leaves FAULT at 0. -/
theorem zeroizeAccepted : Obligations.ZeroizeAccepted := by
  intro s hbusy hfault
  rw [exec_cmdWord_of_no_rise rfl (cmdWrite_accepted 3#32 hbusy hfault) id]
  rfl

end Sys2Proof.Machine

/-! SUPPORT. Proofs of 60_exceptions.md: the writes dropped while BUSY (R216), and the record that the fault state keeps
until a reset (R214, R215). -/

namespace Sys2Proof.Machine

/-! ### Writes while BUSY -/

theorem cmdWrite_busy {r : Regs} (w : Word) (hbusy : r.busy = true) : r.cmdWrite w = r.dropWrite := if_pos hbusy

/-- Settles O12: a CMD write is `DropWrite()`, a SCALAR write is dropped by R114, and CTRL and STATUS do not look at
BUSY. -/
theorem writesWhileBusyAreDropped : Obligations.WritesWhileBusyAreDropped := by
  refine fun s hbusy => ⟨?_, fun w => ⟨?_, exec_of_no_rise id⟩⟩
  · rintro i (hcmd | ⟨n, w, rfl⟩)
    · obtain ⟨w, hw⟩ := Option.ne_none_iff_exists'.mp hcmd
      exact exec_cmdWord_of_no_rise hw (cmdWrite_busy w hbusy) id
    · exact (writeScalarStoresOrDrops s n w).2 hbusy
  · rw [writeCtrlResetsOrSetsIrqEn s w]
    split
    · rfl
    · rfl

/-! ### The record of a fault -/

/-- In the fault state only a reset reaches FAULT, ERRCODE, REASON or VALID: every other change that writes one of them
needs FAULT 0 (R214, R215). -/
theorem StepChange.fault_record_kept {s : State} {r : Regs} (h : StepChange s r) (hf : s.regs.fault = true)
    (hno : s.nextIsReset = false) :
    r.fault = true ∧ r.errcode = s.regs.errcode ∧ r.reason = s.regs.reason ∧ r.valid = s.regs.valid := by
  cases h with
  | reset hreset => simp [hno] at hreset
  | codeReported _ _ _ _ hfault | validated _ _ hfault | multStarted _ _ hfault | multFaulted _ _ hfault
  | zeroized _ _ hfault => simp [hf] at hfault
  | unchanged | completed | dropped | scalarStored | ctrlWritten | statusCleared | faultedZeroize | faultedCmd =>
    exact ⟨hf, rfl, rfl, rfl⟩

/-- Settles O54: `StepChange.fault_record_kept` for the change that the step makes. -/
theorem faultRecordIsKept : Obligations.FaultRecordIsKept := fun _ _ hf h hno =>
  (step_change h).fault_record_kept hf hno

end Sys2Proof.Machine

/-! SUPPORT. Proofs of 70_reset_and_hazards.md: the reset and the power-up (R241, R244), a running MULT completes (R252),
and the derivation of R245. -/

namespace Sys2Proof.Machine

/-! ### Reset and power-up -/

/-- The hardware reset as the next event (R241; log 7). -/
theorem step_hardwareReset {s : State} {rest : List Event} (h : s.agenda = .reset :: rest) :
    step s = .next { s with regs := Regs.reset, resetSeen := true, agenda := rest } :=
  (step_reset h).trans (hardwareReset_eq _)

/-- A read leaves its answer as the response, and nothing else of the state changes (R59). -/
theorem exec_read_eq {i : Instr} {s : State} {a : Response} (hread : i.isRead = true) (ha : answer i s.regs = a) :
    exec i s = .next { s with response := some a } := by
  rw [exec_of_effect_eq (effect_of_isRead hread _), ha]

/-- Settles O1: the registers are `Regs.reset`, and each read leaves its answer, which is evaluated there. -/
theorem hardwareResetGivesResetValues : Obligations.HardwareResetGivesResetValues := by
  intro s rest h
  have hwords (i : Fin 8) : (Vector.replicate 8 0#32)[i] = 0#32 := Vector.getElem_replicate _
  have hstatus : statusWord Regs.reset = 0#32 := by decide
  refine ⟨_, step_hardwareReset h, rfl, rfl, rfl, rfl, rfl, rfl, rfl, rfl, rfl, fun i => ⟨hwords i, hwords i⟩, rfl, rfl,
    exec_read_eq rfl (congrArg (Response.mk .ok) hstatus), exec_read_eq rfl rfl, exec_read_eq rfl rfl,
    exec_read_eq rfl rfl, fun i => exec_read_eq rfl (congrArg (Response.mk .ok) (hwords i)), rfl, rfl⟩

/-- Settles O2: before the first reset only a reset is admitted, and it leaves no register of the power-up state. -/
theorem noHostStepBeforeFirstReset : Obligations.NoHostStepBeforeFirstReset := fun _ _ _ =>
  ⟨step_before_reset rfl rfl Event.noConfusion, step_hardwareReset rfl⟩

/-! ### A running MULT completes -/

/-- After the first reset every step answers a next state, and it takes the head of the agenda (log 1). -/
theorem step_total {s : State} (hseen : s.resetSeen = true) :
    ∃ t, step s = .next t ∧ t.resetSeen = true ∧ t.agenda = s.agenda.tail := by
  cases hagenda : s.agenda with
  | nil =>
    rw [step_nil_engineTurn hseen hagenda, engineTurn_eq]
    exact ⟨_, rfl, by split <;> exact hseen, by split <;> exact hagenda⟩
  | cons e rest =>
    cases e with
    | reset => exact ⟨_, step_hardwareReset hagenda, rfl, rfl⟩
    | engine =>
      refine ⟨_, step_engine_turn hseen hagenda, ?_, ?_⟩
      · split <;> exact hseen
      · split <;> rfl
    | host op =>
      cases hd : decode op with
      | ok i => exact ⟨_, step_host_eq hseen hagenda hd, hseen, rfl⟩
      | error e => exact ⟨_, step_host_error hseen hagenda hd, hseen, rfl⟩

/-- The next step is a reset exactly when the head of the agenda is one (R240). -/
theorem nextIsReset_cons {s : State} {e : Event} {rest : List Event} (h : s.agenda = e :: rest) :
    s.nextIsReset = !e.sparesEngine := by
  cases e with
  | reset => simp [State.nextIsReset, h, Event.sparesEngine]
  | engine => simp [State.nextIsReset, State.nextInstr, h, Event.sparesEngine]
  | host op =>
    simp only [State.nextIsReset, State.nextInstr, h, Event.sparesEngine]
    cases decode op with
    | error => rfl
    | ok i => cases i <;> simp

/-- With events waiting that hold no reset, the Engine comes to move and completes the MULT with the snapshot it began
with (R252; log 2). -/
theorem run_completes (events : List Event) {s : State} (hagenda : s.agenda = events) (hseen : s.resetSeen = true)
    (hbusy : s.regs.busy = true) (hspare : ∀ e ∈ events, e.sparesEngine = true) :
    ∃ (n : Nat) (t : State) (r : Regs), 1 ≤ n ∧ n ≤ events.length + 1 ∧ runSteps n s = .next t ∧ t.regs = r.multComplete ∧ r.k = s.regs.k := by
  induction events generalizing s with
  | nil =>
    obtain ⟨t, hstep, -, -⟩ := step_total hseen
    have hengine : s.nextIsEngine = true := by simp [State.nextIsEngine, hagenda]
    exact ⟨1, t, s.regs, le_rfl, le_rfl, run_succ hstep, step_regs_of_engine hstep hseen hengine hbusy, rfl⟩
  | cons e rest ih =>
    obtain ⟨t, hstep, htseen, htagenda⟩ := step_total hseen
    cases hengine : s.nextIsEngine with
    | true =>
      exact ⟨1, t, s.regs, le_rfl, by simp, run_succ hstep, step_regs_of_engine hstep hseen hengine hbusy, rfl⟩
    | false =>
      have hreset : s.nextIsReset = false := by rw [nextIsReset_cons hagenda, hspare e List.mem_cons_self]; rfl
      obtain ⟨_, _, _, hregs⟩ := runningMultIsUndisturbed s t hbusy hreset hengine hstep
      obtain ⟨n, u, r, -, hn, hrun, hu, hk⟩ := ih (by rw [htagenda, hagenda]; rfl) htseen (by rw [hregs]; exact hbusy)
        fun e he => hspare e (List.mem_cons_of_mem _ he)
      exact ⟨n + 1, u, r, by omega, by simpa using hn, (run_succ hstep).trans hrun, hu, by rw [hk, hregs]⟩

/-- Settles O29: the registers are those of the completion, whose key is the key of K. -/
theorem runningMultCompletes : Obligations.RunningMultCompletes := by
  intro s hseen hbusy hspare
  obtain ⟨n, t, r, hpos, hn, hrun, hregs, hk⟩ := run_completes s.agenda rfl hseen hbusy hspare
  refine ⟨n, t, hpos, hn, hrun, ?_⟩
  simp [hregs, hk]

/-! ### The derivation -/

/-- The SCALAR writes of `LDK` for the indices of a list (R80). -/
def scalarWrites (words : Words8) (indices : List (Fin 8)) : List Event :=
  indices.map fun i => .host (memWrite (RegName.off (.scalar i)) words[i])

/-- Eight registers after the words of some indices are stored, one after the other. -/
def storeWords (words : Words8) (indices : List (Fin 8)) (old : Words8) : Words8 :=
  indices.foldl (fun v (i : Fin 8) => v.set i words[i]) old

theorem storeWords_get (words : Words8) (indices : List (Fin 8)) (old : Words8) (j : Fin 8) :
    (storeWords words indices old)[j] = if j ∈ indices then words[j] else old[j] := by
  induction indices generalizing old with
  | nil => simp [storeWords]
  | cons i rest ih =>
    rw [storeWords, List.foldl_cons, ← storeWords, ih]
    by_cases hj : j ∈ rest
    · simp [hj]
    · by_cases hij : j = i
      · subst hij; simp
      · simp [hj, hij, Fin.val_inj, Ne.symm hij]

/-- Whatever SCALAR held, eight stores leave the new words alone (R246). -/
theorem storeWords_finRange (words old : Words8) : storeWords words (List.finRange 8) old = words := by
  ext1 j hj
  simpa using storeWords_get words (List.finRange 8) old ⟨j, hj⟩

/-- One SCALAR write while BUSY is 0 (R114). -/
theorem step_scalarWrite {s : State} {i : Fin 8} {w : Word} {rest : List Event} (hseen : s.resetSeen = true)
    (hbusy : s.regs.busy = false) (hagenda : s.agenda = .host (memWrite (RegName.off (.scalar i)) w) :: rest) :
    ∃ t, step s = .next t ∧ t.resetSeen = true ∧ t.agenda = rest ∧
      t.regs = { s.regs with scalar := s.regs.scalar.set i w } := by
  have hregs : effect (.wrScalar i w) s.regs = { s.regs with scalar := s.regs.scalar.set i w } := by
    simp [effect, hbusy]
  exact ⟨_, step_host_eq hseen hagenda (decode_write_scalar i w), hseen, rfl, hregs⟩

/-- SCALAR writes while BUSY is 0 store their words, and change no other register (R114). -/
theorem run_scalarWrites (words : Words8) (indices : List (Fin 8)) {s : State} {rest : List Event}
    (hseen : s.resetSeen = true) (hbusy : s.regs.busy = false)
    (hagenda : s.agenda = scalarWrites words indices ++ rest) :
    ∃ t, (∀ n, runSteps (indices.length + n) s = runSteps n t) ∧ t.resetSeen = true ∧ t.agenda = rest ∧
      t.regs = { s.regs with scalar := storeWords words indices s.regs.scalar } := by
  induction indices generalizing s with
  | nil => exact ⟨s, fun n => by simp, hseen, hagenda, rfl⟩
  | cons i indices ih =>
    obtain ⟨u, hstep, huseen, huagenda, huregs⟩ := step_scalarWrite hseen hbusy hagenda
    obtain ⟨t, hrun, htseen, htagenda, htregs⟩ := ih huseen (by rw [huregs]; exact hbusy) huagenda
    refine ⟨t, fun n => ?_, htseen, htagenda, by rw [htregs, huregs]; rfl⟩
    rw [List.length_cons, Nat.add_right_comm, run_succ hstep, hrun]

/-- A MULT of a valid scalar, by any operation that carries it, and the Engine's turn: the completion of the accepted
MULT (R162, R163). -/
theorem run_mult_op_engine {s : State} {op : HostOp} {i : Instr} {rest : List Event} (hseen : s.resetSeen = true)
    (hagenda : s.agenda = .host op :: .engine :: rest) (hdecode : decode op = .ok i) (hi : i.cmdWord = some 2#32)
    (hbusy : (s.regs.cmdWrite 2#32).busy = true) :
    ∃ t, runSteps 2 s = .next t ∧ t.agenda = rest ∧ t.regs = (s.regs.cmdWrite 2#32).multComplete := by
  have hstep := step_host_eq hseen hagenda hdecode
  rw [effect_cmdWord hi] at hstep
  rw [run_succ hstep, run_succ (step_engine_turn (by exact hseen) rfl), State.respond_regs, State.commit_regs,
    if_pos hbusy]
  exact ⟨_, rfl, rfl, rfl⟩

/-- Settles O30: the eight writes load the key, and MULT with the Engine's turn leaves the key of that scalar. -/
theorem derivationGivesCompressedKey : Obligations.DerivationGivesCompressedKey := by
  intro s words rest x y hseen hbusy hfault hpos hlt hmul hagenda
  obtain ⟨u, hload, huseen, huagenda, huregs⟩ := run_scalarWrites words (List.finRange 8) hseen hbusy hagenda
  rw [storeWords_finRange] at huregs
  have haccept := cmdWrite_mult_valid (r := u.regs) (by rw [huregs]; exact hbusy) (by rw [huregs]; exact hfault)
    (by rw [huregs]; exact hpos) (by rw [huregs]; exact hlt)
  obtain ⟨t, hrun, htagenda, htregs⟩ := run_mult_op_engine (i := .wrCmd 2#32) huseen huagenda rfl rfl (by rw [haccept])
  have hkey : multKey (BitVec.ofNat 256 (scalarValue words)) = compress x y :=
    multKey_of_mul_eq_affine (by rw [toNat_ofNat_of_lt_groupOrder hlt, hmul])
  rw [haccept, huregs] at htregs
  refine ⟨t, (hload 2).trans hrun, htagenda, ?_⟩
  rw [htregs]
  refine ⟨rfl, rfl, rfl, rfl, hfault, ?_⟩
  rw [Regs.multComplete_pubkeyPrefix, Regs.multComplete_pubkeyX, hkey, emitKey_packX]

end Sys2Proof.Machine
